-- ==== Sys2Proof/Word.lean ====
section
/-! DEFINITION. The bit-vector types of the block (00_scope.md rules R11 and R12): every value is unsigned, and bit 0 is
the least significant bit. -/
namespace Sys2Proof

/-- A byte b[7:0] (rule R12). -/
abbrev Byte := BitVec 8

/-- The 5-bit argument of an instruction (30_encoding.md rule R70). -/
abbrev Arg := BitVec 5

/-- The actuator line vector lines[4:0] (10_state.md rule R28). -/
abbrev Lines := BitVec 5

/-- The batch cursor `k` and the count `cnt`, 6 bits (10_state.md rules R22 and R23). -/
abbrev Index := BitVec 6

/-- The tick counter, TICK_W = 16 bits (00_scope.md rule R11, 10_state.md rule R26). -/
abbrev Ticks := BitVec 16

/-- The receive frame buffer rx_buf[0..FRAME_BUF_LEN−1], 53 bytes (00_scope.md rule R10, 20_memory.md rule R52). -/
abbrev FrameBuf := Vector Byte 53

/-- The instruction input fb_instr[0..49] of the batch framer (10_state.md rule R34). -/
abbrev InstrBuf := Vector Byte 50

end Sys2Proof
end

