-- ==== Sys2Proof/Config.lean ====
section
/-! DEFINITION. The named constants of 00_scope.md rules R5 to R11, the sample of the input ports (10_state.md rule R32),
and the values the spec leaves open: opaque constants, so nothing can be proved of one. -/
namespace Sys2Proof

/-- NODE_ADDR (rule R5). -/
def Config.nodeAddr : Byte := 0x01#8

/-- MAX_BATCH (rule R6). -/
def Config.maxBatch : Nat := 50

/-- DISTTIME, ticks per unit of argument (rule R7). -/
def Config.distTime : Nat := 500

/-- TURN_UNITS (rule R8). -/
def Config.turnUnits : Nat := 31

/-- ACK_CODE (rule R9). -/
def Config.ackCode : Byte := 0x11#8

/-- FRAME_BUF_LEN (rule R10). -/
def Config.frameBufLen : Nat := 53

/-- TICK_W (rule R11). -/
def Config.tickWidth : Nat := 16

/-- What the input ports carry in one clock cycle (10_state.md rule R32). `clk` is the step itself. -/
structure Input where
  /-- `rst`: synchronous reset, active high. -/
  rst : Bool
  /-- `tick_en`: this cycle is one tick. -/
  tickEn : Bool
  /-- `rx_valid`: the radio offers a received packet. -/
  rxValid : Bool
  /-- `rx_ok`: with `rx_valid`, the packet was received whole. -/
  rxOk : Bool
  /-- `rx_buf[0..52]`: the receive frame buffer. -/
  rxBuf : FrameBuf
  /-- `tx_done`: the radio finishes the transmit this block requested. -/
  txDone : Bool
  /-- `tx_ok`: with `tx_done`, the result of `send_packet`. -/
  txOk : Bool
  deriving DecidableEq, Repr, Inhabited

/-- A cycle in which the environment does nothing: no reset, no packet, no tick, no end of transmit. -/
def Input.quiet : Input :=
  { rst := false, tickEn := false, rxValid := false, rxOk := false, rxBuf := Vector.replicate 53 0#8,
    txDone := false, txOk := false }

/-- FREE VALUE: the sample of a cycle for which State lists none, by cycle number (60_exceptions.md rule R229: the
environment may do anything; log 1). -/
opaque Config.freeInput : Nat → Input

/-- FREE VALUE: what entry `i` of the batch store holds after the `e`-th reset while nothing has written it
(10_state.md rule R38, 70_reset_and_hazards.md rule R243; log 2). -/
opaque Config.unwrittenByte : (e i : Nat) → Byte

/-- TICK_PERIOD, the open platform parameter (60_exceptions.md rule R224, 92_eei_decisions.md D3), in a unit the platform
chooses; no value of it can be proved (log 10). -/
opaque Config.tickPeriod : Nat

/-- The real-time length of `w` counted ticks (70_reset_and_hazards.md rule R252). -/
def Config.realTime (w : Ticks) : Nat := w.toNat * Config.tickPeriod

end Sys2Proof
end

