-- ==== Sys2Proof/Syntax.lean ====
section
/-! DEFINITION. The instructions (one constructor per row of spec/opcode_table.json), the rows of the opcode map, the
opcode classes, the verdicts of the frame parsers and the refusals of the functions outside the clocked block. -/
namespace Sys2Proof

/-- An instruction (30_encoding.md rule R74). The argument is its only operand (rule R72). -/
inductive Instr where
  /-- STOP: opcode 0, argument 0 (43_motion.md rule R182). -/
  | stop
  /-- DETONATE(arg=a), a ≠ 0: opcode 0 (rule R183). -/
  | detonate (arg : Arg)
  /-- FORWARD(arg=a): opcode 1 (rule R184). -/
  | forward (arg : Arg)
  /-- BACKWARD(arg=a): opcode 2 (rule R185). -/
  | backward (arg : Arg)
  /-- TURN_LEFT: opcode 3, argument 0 (rule R186). -/
  | turnLeft
  /-- TURN_RIGHT(arg=a), a ≠ 0: opcode 3 (rule R187). -/
  | turnRight (arg : Arg)
  deriving DecidableEq, Repr

/-- The opcode classes of 30_encoding.md rule R71. -/
inductive OpClass where
  | stopOrDetonate
  | forward
  | backward
  | turn
  deriving DecidableEq, Repr

/-- The mnemonics of the opcode map (30_encoding.md rule R74). -/
inductive Mnemonic where
  | STOP
  | DETONATE
  | FORWARD
  | BACKWARD
  | TURN_LEFT
  | TURN_RIGHT
  deriving DecidableEq, Repr

/-- A row of the opcode map (rule R74): `argNonzero` is the condition b[4:0] ≠ 0. -/
structure OpcodeRow where
  mnemonic : Mnemonic
  matchBits : Byte
  mask : Byte
  argNonzero : Bool
  deriving DecidableEq, Repr

/-- The mnemonic of an instruction. -/
def Instr.mnemonic : Instr → Mnemonic
  | .stop => .STOP
  | .detonate _ => .DETONATE
  | .forward _ => .FORWARD
  | .backward _ => .BACKWARD
  | .turnLeft => .TURN_LEFT
  | .turnRight _ => .TURN_RIGHT

/-- The argument field of an instruction. -/
def Instr.arg : Instr → Arg
  | .stop => 0#5
  | .detonate a => a
  | .forward a => a
  | .backward a => a
  | .turnLeft => 0#5
  | .turnRight a => a

/-- Why a received packet is dropped (60_exceptions.md rule R210). -/
inductive DropReason where
  /-- `Drop(Malformed)`: the receipt status is 0. -/
  | malformed
  /-- `Drop(Address)`: byte 1 is not NODE_ADDR. -/
  | address
  deriving DecidableEq, Repr

/-- The verdict of `ParseBatch` (41_framer.md rule R124). -/
inductive BatchVerdict where
  | drop (reason : DropReason)
  /-- `Fault(Bounds, n)`: the count byte `n` exceeds MAX_BATCH. -/
  | bounds (n : Byte)
  | accept (n : Byte) (instrs : List Byte)
  deriving DecidableEq, Repr

/-- The verdict of `ParseAck` (41_framer.md rule R133). -/
inductive AckVerdict where
  | drop (reason : DropReason)
  | ack (code : Byte)
  deriving DecidableEq, Repr

/-- The cause codes of 60_exceptions.md rule R210. -/
inductive Cause where
  | dropMalformed
  | dropAddress
  | faultBounds
  | badOpcode
  | ackLost
  deriving DecidableEq, Repr

/-- The refusals outside the clocked block (60_exceptions.md rule R217): refusals of a function's inputs, which no state
records. -/
inductive CallRefusal where
  /-- `refuse(EncoderDomain)` of `EncodeInstrV` (40_codec.md rule R101). -/
  | encoderDomain
  /-- `refuse(BatchTooLong)` of `FrameBatch` (41_framer.md rule R121). -/
  | batchTooLong
  /-- An assembler input outside the syntax (30_encoding.md rule R83). -/
  | assemblerSyntax
  deriving DecidableEq, Repr

/-- The names an assembler reads: the canonical mnemonics and the aliases of 30_encoding.md rule R83. -/
inductive AsmName where
  | stop
  | detonate
  | forward
  | backward
  | turnLeft
  | turnRight
  /-- `STOP_OR_DETONATE`, the source's name of the class. -/
  | stopOrDetonate
  /-- `TURN`, the source's name of the class. -/
  | turn
  deriving DecidableEq, Repr

/-- Why the decoder refuses a byte list. -/
inductive DecodeError where
  /-- There is no byte to decode; no byte value is ever refused (30_encoding.md rule R80). -/
  | noByte
  deriving DecidableEq, Repr

end Sys2Proof
end

