-- ==== Sys2Proof/WellFormed.lean ====
section
/-! DEFINITION. Which instruction terms are instructions: the operand ranges of 30_encoding.md rules R74 and R83. -/
namespace Sys2Proof

/-- `DETONATE(arg=0)` and `TURN_RIGHT(arg=0)` are no instructions: their words are STOP's and TURN_LEFT's (rule R83). The
range a ≤ 31 is the type's. -/
def Instr.wellFormed : Instr → Bool
  | .stop => true
  | .detonate a => a != 0#5
  | .forward _ => true
  | .backward _ => true
  | .turnLeft => true
  | .turnRight a => a != 0#5

/-- A batch (00_scope.md rule R6): at most MAX_BATCH instructions, each well-formed. -/
def batchWellFormed (is : List Instr) : Bool :=
  decide (is.length ≤ Config.maxBatch) && is.all Instr.wellFormed

end Sys2Proof
end

