-- ==== Sys2Proof/Decode.lean ====
section
/-! DEFINITION. The instruction codec (40_codec.md, 30_encoding.md rules R70 to R74): the decoder first, then the encoder.
Both are combinational. -/
namespace Sys2Proof

/-- `DecodeInstr(b)` (40_codec.md rule R102): `op <- b[6:5]`, `arg <- b[4:0]`; nothing reads b[7]. -/
def decodeInstr (b : Byte) : BitVec 2 × Arg :=
  (b.extractLsb' 5 2, b.extractLsb' 0 5)

/-- `DecodeInstrV(b)`, the opcode as its masked value (rule R103). -/
def decodeInstrV (b : Byte) : Byte × Byte :=
  (b &&& 0x60#8, b &&& 0x1F#8)

/-- The class of a 2-bit opcode (30_encoding.md rule R71). -/
def OpClass.ofBits (op : BitVec 2) : OpClass :=
  if op = 0b00#2 then .stopOrDetonate
  else if op = 0b01#2 then .forward
  else if op = 0b10#2 then .backward
  else .turn

/-- The instruction of an opcode class and an argument (40_codec.md rule R104). -/
def OpClass.instr (c : OpClass) (arg : Arg) : Instr :=
  match c with
  | .stopOrDetonate => if arg = 0#5 then .stop else .detonate arg
  | .forward => .forward arg
  | .backward => .backward arg
  | .turn => if arg = 0#5 then .turnLeft else .turnRight arg

/-- `Classify(b)` (40_codec.md rule R104): total, since every byte is an instruction (30_encoding.md rule R80). -/
def classify (b : Byte) : Instr :=
  (OpClass.ofBits (decodeInstr b).1).instr (decodeInstr b).2

/-- The decoder on bytes: one byte is one instruction (30_encoding.md rule R81). -/
def decode : List Byte → Except DecodeError (Instr × List Byte)
  | [] => .error .noByte
  | b :: rest => .ok (classify b, rest)

/-- The instructions of a whole batch, byte by byte (30_encoding.md rule R81). -/
def decodeBatch (bs : List Byte) : List Instr :=
  bs.map classify

/-- The opcode map (30_encoding.md rule R74). -/
def opcodeTable : List OpcodeRow :=
  [ { mnemonic := .STOP,       matchBits := 0x00#8, mask := 0x7F#8, argNonzero := false },
    { mnemonic := .DETONATE,   matchBits := 0x00#8, mask := 0x60#8, argNonzero := true },
    { mnemonic := .FORWARD,    matchBits := 0x20#8, mask := 0x60#8, argNonzero := false },
    { mnemonic := .BACKWARD,   matchBits := 0x40#8, mask := 0x60#8, argNonzero := false },
    { mnemonic := .TURN_LEFT,  matchBits := 0x60#8, mask := 0x7F#8, argNonzero := false },
    { mnemonic := .TURN_RIGHT, matchBits := 0x60#8, mask := 0x60#8, argNonzero := true } ]

/-- A byte selects a row when `(b & mask) = match` and the row's condition holds (rule R74). -/
def OpcodeRow.selects (r : OpcodeRow) (b : Byte) : Bool :=
  b &&& r.mask == r.matchBits && (!r.argNonzero || b &&& 0x1F#8 != 0#8)

/-- The bytes of an instruction whose bits are `w`, the least significant byte first. -/
def bytesOfWord : (nBytes w : Nat) → List Byte
  | 0, _ => []
  | n + 1, w => BitVec.ofNat 8 w :: bytesOfWord n (w / 256)

/-- What the decoder reads from an instruction whose `nbits` bits are `w`; every instruction is one byte (rule R81), so at
least one byte is laid out. -/
def decodeTableWord (nbits w : Nat) : Option Instr :=
  match decode (bytesOfWord (max (nbits / 8) 1) (w % 2 ^ nbits)) with
  | .ok (i, _) => some i
  | .error _ => none

/-! ### The encoder -/

/-- `EncodeInstr(op, arg) = {1'b0, op, arg}` (40_codec.md rule R100). -/
def encodeInstr (op : BitVec 2) (arg : Arg) : Byte :=
  (0b0#1 ++ op ++ arg)

/-- `EncodeInstrV(opv, arg)` (40_codec.md rule R101), on inputs wider than its domain: outside it refuses and never
truncates. -/
def encodeInstrV (opv arg : Byte) : Except CallRefusal Byte :=
  if opv &&& 0x9F#8 ≠ 0#8 ∨ arg.toNat > 31 then .error .encoderDomain
  else .ok (opv ||| arg)

/-- The opcode bits of an instruction (30_encoding.md rule R71). -/
def Instr.op : Instr → BitVec 2
  | .stop => 0b00#2
  | .detonate _ => 0b00#2
  | .forward _ => 0b01#2
  | .backward _ => 0b10#2
  | .turnLeft => 0b11#2
  | .turnRight _ => 0b11#2

/-- The byte of an instruction, bit 7 written 0 (30_encoding.md rule R73). -/
def encodeByte (i : Instr) : Byte :=
  encodeInstr i.op i.arg

/-- The words of an instruction: one byte (30_encoding.md rule R81). -/
def encode (i : Instr) : List Byte :=
  [encodeByte i]

/-- The instruction bytes of a batch, in order. -/
def encodeBatch (is : List Instr) : List Byte :=
  is.map encodeByte

end Sys2Proof
end

