-- ==== Sys2Proof/Machine/State.lean ====
section
/-! DEFINITION. The state of the sequencer (10_state.md rule R20), the reasons a step can stop, and the state after
reset (rule R38). -/
namespace Sys2Proof.Machine

/-- The sequencer states (10_state.md rule R24). -/
inductive SeqState where
  /-- IDLE: waits for a packet. -/
  | idle
  /-- ISSUE: starts instruction `k`, or leaves for ACK when `k = cnt`. -/
  | issue
  /-- WAIT: holds instruction `k`. -/
  | wait
  /-- ACK: transmits the acknowledgment. -/
  | ack
  /-- FAULT: stopped by a bounds violation until reset. -/
  | fault
  deriving DecidableEq, Repr

/-- The batch store as (index, byte) pairs: the entries written since reset, indexes strictly rising (20_memory.md rule
R50). An index not listed reads as a free byte (log 2). -/
abbrev Memory := List Host.Cell

/-- The registers of 10_state.md rule R20, in its order, and then the model's own fields: the environment's samples and
two counters. -/
structure State where
  /-- `st` (rule R24). -/
  st : SeqState
  /-- `cnt`, the count of the batch being executed (rule R23). -/
  cnt : Index
  /-- `k`, the batch cursor, in the place of a program counter (rule R22). -/
  k : Index
  /-- `cur`, the instruction byte being executed (rule R25). -/
  cur : Byte
  /-- `ticks`, the elapsed-tick counter of the current hold (rule R26). -/
  ticks : Ticks
  /-- `mem`, the batch store (rule R27). -/
  mem : Memory
  /-- `lines`, the actuator line vector (rule R28). -/
  lines : Lines
  /-- `hb`, the heartbeat (rule R29). -/
  hb : Bool
  /-- `fault`, the sticky bounds-fault flag (rule R30). -/
  fault : Bool
  /-- `fault_cnt`, the count byte that raised it (rule R31). -/
  faultCnt : Byte
  /-- The environment's samples, one a cycle, the current cycle's first; a cycle with none listed has a free sample
  (log 1). -/
  inputs : List Input
  /-- Cycles run so far: names the free sample and stamps the observation (log 3). -/
  cycle : Nat
  /-- Resets so far: names the free bytes of the batch store (log 2). -/
  epoch : Nat
  deriving DecidableEq, Repr

/-- The state after reset: the table of 10_state.md rule R38, nothing written in the batch store, and an environment of
which nothing is known. -/
def State.reset : State :=
  { st := .idle, cnt := 0#6, k := 0#6, cur := 0x00#8, ticks := 0#16, mem := [], lines := 0b00000#5, hb := false,
    fault := false, faultCnt := 0x00#8, inputs := [], cycle := 0, epoch := 0 }

/-- Why a step stops. The bounds fault of 60_exceptions.md rule R213 is no stop: it is the state FAULT. -/
inductive Fault where
  /-- Raised by the fetch in ISSUE when the cursor is 50 or more: the batch store has no such entry (20_memory.md rule
  R50). No state that meets the invariant of Safety.lean raises it. Safe. -/
  | noSuchEntry (index : Nat)
  deriving DecidableEq, Repr

/-- Why an instruction is refused. -/
inductive Refusal where
  /-- Raised by a refused arm of exec: the instruction has no meaning yet. Safe. -/
  | notModelled (mnemonic : String)
  /-- Raised by a meaning applied while `st` is IDLE, ACK or FAULT: no instruction executes there (10_state.md rule R24,
  42_sequencer.md rule R165). step never applies one there. Safe. -/
  | notExecuting
  deriving DecidableEq, Repr

end Sys2Proof.Machine
end

