-- ==== Sys2Proof/Machine/Ops.lean ====
section
/-! DEFINITION. The operations every meaning and the sequencer share: the outcome of a step, the input ports, the batch
store, the cycles of an instruction, acceptance, the bounds fault and reset. -/
namespace Sys2Proof.Machine

/-- What a meaning and a step answer. -/
abbrev Result := Host.Outcome State Fault Refusal

/-- Apply `f` to the next state, where there is one. -/
def mapNext (f : State → State) : Result → Result
  | .next s => .next (f s)
  | .fault r => .fault r
  | .refused r => .refused r

/-! ### The input ports and the clock edge -/

/-- The sample of the input ports in this cycle (10_state.md rule R32): the first listed, or a free one (log 1). -/
def State.input (s : State) : Input :=
  match s.inputs with
  | x :: _ => x
  | [] => Config.freeInput s.cycle

/-- The clock edge: the environment moves to its next sample. -/
def State.edge (s : State) : State :=
  { s with inputs := s.inputs.tail, cycle := s.cycle + 1 }

/-! ### The batch store (20_memory.md rule R50) -/

/-- What was last written to entry `i`, if anything was. -/
def Memory.entry : Memory → Nat → Option Byte
  | [], _ => none
  | (a, b) :: m, i => if a = i then some b else Memory.entry m i

/-- `MemWrite(i, 1, v)` (00_scope.md rule R13). -/
def Memory.write : Memory → Nat → Byte → Memory
  | [], i, v => [(i, v)]
  | (a, b) :: m, i, v =>
    if i < a then (i, v) :: (a, b) :: m
    else if i = a then (i, v) :: m
    else (a, b) :: Memory.write m i v

/-- Write the bytes of a list to entries `i`, `i + 1`, … -/
def Memory.writeFrom (m : Memory) (i : Nat) : List Byte → Memory
  | [] => m
  | v :: vs => Memory.writeFrom (m.write i v) (i + 1) vs

/-- The canonical form: indexes strictly rising and below MAX_BATCH. -/
def Memory.wf : Memory → Bool
  | [] => true
  | (a, _) :: m => decide (a < Config.maxBatch) && m.all (fun c => decide (a < c.1)) && Memory.wf m

/-- `MemRead(i, 1)` (00_scope.md rule R13): an entry nothing has written since reset reads as a free byte (log 2). -/
def State.readEntry (s : State) (i : Nat) : Byte :=
  (s.mem.entry i).getD (Config.unwrittenByte s.epoch i)

/-- The fetch `mem[k]` of 42_sequencer.md rule R154: every index 0..49 is legal (20_memory.md rule R56), and there is no
other entry (log 4). -/
def State.fetch (s : State) : Option Byte :=
  if s.k.toNat < Config.maxBatch then some (s.readEntry s.k.toNat) else none

/-- `cur <- mem[k]` (42_sequencer.md rule R154). -/
def State.latch (s : State) (b : Byte) : State :=
  { s with cur := b }

/-! ### The cycles of an instruction (42_sequencer.md rules R154 and R155) -/

/-- ISSUE: the Setup. -/
def State.setup (s : State) (newLines : Lines) : State :=
  { s with lines := newLines, ticks := 0#16, st := .wait }

/-- WAIT before the end of the hold: count the cycle if it is a tick. -/
def State.hold (s : State) : State :=
  if s.input.tickEn then { s with ticks := s.ticks + 1#16 } else s

/-- WAIT at the end of the hold: the Finish. -/
def State.finish (s : State) (newLines : Lines) (newHb : Bool) : State :=
  { s with lines := newLines, hb := newHb, ticks := 0#16, k := s.k + 1#6, st := .issue }

/-- One clock cycle of an instruction whose Setup writes `setupLines`, whose hold is `w` ticks and whose Finish writes
`finishLines` and `finishHb` (43_motion.md rule R180). An instruction executes in ISSUE and WAIT only (10_state.md rule R24;
log 5). -/
def instrCycle (setupLines : Lines) (w : Ticks) (finishLines : Lines) (finishHb : Bool) (s : State) : Result :=
  match s.st with
  | .issue => .next (s.setup setupLines)
  | .wait => if s.ticks = w then .next (s.finish finishLines finishHb) else .next s.hold
  | .idle => .refused .notExecuting
  | .ack => .refused .notExecuting
  | .fault => .refused .notExecuting

/-- Go to another sequencer state and change nothing else. -/
def State.enter (s : State) (st : SeqState) : State :=
  { s with st := st }

/-! ### Acceptance, the bounds fault and reset -/

/-- The acceptance of a batch (42_sequencer.md rule R152): entries from `n` on keep their contents. -/
def State.acceptBatch (s : State) (n : Byte) (is : List Byte) : State :=
  { s with cnt := n.setWidth 6, mem := s.mem.writeFrom 0 is, k := 0#6, st := .issue }

/-- `raise Fault(Bounds, n)` (60_exceptions.md rule R213), the block's only trap-like entry (rule R220). -/
def State.raiseBounds (s : State) (n : Byte) : State :=
  { s with fault := true, faultCnt := n, lines := 0b00000#5, st := .fault }

/-- Reset (70_reset_and_hazards.md rule R240): every register takes its reset value; the batch store is unspecified again
(rule R243). It is the only way out of FAULT (60_exceptions.md rule R221). -/
def State.applyReset (s : State) : State :=
  { State.reset with inputs := s.inputs, cycle := s.cycle, epoch := s.epoch + 1 }

end Sys2Proof.Machine
end

