-- ==== Sys2Proof/Machine/Flags.lean ====
section
/-! DEFINITION. The block has no condition codes (10_state.md rule R36); its one-bit status is `hb` and `fault`. No
instruction writes `fault`. -/
namespace Sys2Proof.Machine

/-- `hb <- hb ^ 1` (10_state.md rule R29). -/
def toggleHb (s : State) : Bool := !s.hb

/-- The heartbeat of a TURN: unchanged (10_state.md rule R29). -/
def keepHb (s : State) : Bool := s.hb

end Sys2Proof.Machine
end

