-- ==== Sys2Proof/Machine/Operands.lean ====
section
/-! DEFINITION. The two readings of an argument (30_encoding.md rule R72), the hold lengths (43_motion.md rule R191) and
the line sets (10_state.md rule R28). -/
namespace Sys2Proof.Machine

/-- {F}: bit 0 (10_state.md rule R28). -/
def lineF : Lines := 0b00001#5
/-- {L}: bit 1. -/
def lineL : Lines := 0b00010#5
/-- {B}: bit 2. -/
def lineB : Lines := 0b00100#5
/-- {R}: bit 3. -/
def lineR : Lines := 0b01000#5
/-- {D}: bit 4. -/
def lineD : Lines := 0b10000#5
/-- {}: no line. -/
def lineNone : Lines := 0b00000#5
/-- {L, R}: the two lines shared between left and right turns (43_motion.md rule R186). -/
def lineLR : Lines := lineL ||| lineR

/-- The argument as a flag (30_encoding.md rule R72): "> 0" and "≠ 0" are the same test. -/
def argFlag (arg : Arg) : Bool := arg != 0#5

/-- The argument as a duration scale: the hold DISTTIME × arg of FORWARD and BACKWARD (43_motion.md rule R191). -/
def scaledHold (arg : Arg) : Ticks := BitVec.ofNat 16 (Config.distTime * arg.toNat)

/-- The fixed hold of a TURN, DISTTIME × TURN_UNITS (43_motion.md rule R191). -/
def turnHold : Ticks := BitVec.ofNat 16 (Config.distTime * Config.turnUnits)

end Sys2Proof.Machine
end

