-- ==== Sys2Proof/Machine/Motion.lean ====
section
/-! DEFINITION. One clock cycle of each instruction (43_motion.md rules R182 to R187): its Setup in ISSUE, its hold and its
Finish in WAIT (42_sequencer.md rules R154 and R155). -/
namespace Sys2Proof.Machine

/-- STOP (rule R182): clears every line; no hold; toggles the heartbeat. -/
def execStop (s : State) : Result :=
  instrCycle lineNone 0#16 s.lines (toggleHb s) s

/-- DETONATE (rule R183): asserts D and clears the motion lines, whatever the argument's magnitude. DETONATE(arg=0) is no
instruction (WellFormed.lean). -/
def execDetonate (_arg : Arg) (s : State) : Result :=
  instrCycle lineD 0#16 s.lines (toggleHb s) s

/-- FORWARD (rule R184). -/
def execForward (arg : Arg) (s : State) : Result :=
  instrCycle lineF (scaledHold arg) (s.lines &&& ~~~lineF) (toggleHb s) s

/-- BACKWARD (rule R185). -/
def execBackward (arg : Arg) (s : State) : Result :=
  instrCycle lineB (scaledHold arg) (s.lines &&& ~~~lineB) (toggleHb s) s

/-- TURN_LEFT (rule R186): F, B and D are left as they are. -/
def execTurnLeft (s : State) : Result :=
  instrCycle ((s.lines &&& ~~~lineLR) ||| lineL) turnHold (s.lines &&& ~~~lineLR) (keepHb s) s

/-- TURN_RIGHT (rule R187), whatever the argument's magnitude. TURN_RIGHT(arg=0) is no instruction (WellFormed.lean). -/
def execTurnRight (_arg : Arg) (s : State) : Result :=
  instrCycle ((s.lines &&& ~~~lineLR) ||| lineR) turnHold (s.lines &&& ~~~lineLR) (keepHb s) s

end Sys2Proof.Machine
end

