-- ==== Sys2Proof/Machine/Dispatch.lean ====
section
/-! DEFINITION. The dispatch of 43_motion.md rule R181: one arm per instruction. -/
namespace Sys2Proof.Machine

def exec (i : Instr) (s : State) : Host.Outcome State Fault Refusal :=
  match i with
  | .stop => Sys2Proof.Machine.execStop s
  | .detonate arg => Sys2Proof.Machine.execDetonate arg s
  | .forward arg => Sys2Proof.Machine.execForward arg s
  | .backward arg => Sys2Proof.Machine.execBackward arg s
  | .turnLeft => Sys2Proof.Machine.execTurnLeft s
  | .turnRight arg => Sys2Proof.Machine.execTurnRight arg s

end Sys2Proof.Machine
end

