-- ==== Sys2Proof/Machine/Framer.lean ====
section
/-! DEFINITION. The packet framer (41_framer.md): four combinational functions without state. Frame byte 0 is the length, 1
the address, 2 the count or ack code, and the instructions follow (30_encoding.md rule R75). -/
namespace Sys2Proof.Machine

/-- `FrameBatch(n, is)` (rule R121): the frame `[n + 2, NODE_ADDR, n] ++ is`, each byte copied unchanged (rule R123). -/
def frameBatch (n : Nat) (is : List Byte) : Except CallRefusal (List Byte) :=
  if n > Config.maxBatch ∨ is.length ≠ n then .error .batchTooLong
  else .ok ([BitVec.ofNat 8 (n + 2), Config.nodeAddr, BitVec.ofNat 8 n] ++ is)

/-- A frame laid out in a buffer of FRAME_BUF_LEN bytes, followed by the bytes of `tail` and then by 0x00. -/
def padFrame (f tail : List Byte) : FrameBuf :=
  ⟨((f ++ tail ++ List.replicate 53 0x00#8).take 53).toArray, by simp; omega⟩

/-- The batch framer on its ports (10_state.md rule R34): inputs `fb_cnt[5:0]` and `fb_instr[0..49]`, of which the first
`fb_cnt` entries are used; outputs `fb_frame[0..52]`, driven 0x00 after the frame, and `fb_len` (rule R121). -/
def frameBatchPort (fbCnt : Index) (fbInstr : InstrBuf) : Except CallRefusal (FrameBuf × Byte) :=
  match frameBatch fbCnt.toNat (fbInstr.toList.take fbCnt.toNat) with
  | .ok f => .ok (padFrame f [], fbCnt.setWidth 8 + 3#8)
  | .error r => .error r

/-- The instruction bytes `buf[3], …, buf[3+n−1]` (rule R127). -/
def frameInstrs (buf : FrameBuf) (n : Nat) : List Byte :=
  (buf.toList.drop 3).take n

/-- `ParseBatch(ok, buf)` (rule R124), the checks in the order receipt, address, count (rule R129); buf[0] is never read
(rule R128). -/
def parseBatch (ok : Bool) (buf : FrameBuf) : BatchVerdict :=
  if ok = false then .drop .malformed
  else if buf[1] ≠ Config.nodeAddr then .drop .address
  else if buf[2].toNat > Config.maxBatch then .bounds buf[2]
  else .accept buf[2] (frameInstrs buf buf[2].toNat)

/-- `FrameAck()` (rule R131). -/
def frameAck : List Byte :=
  [0x02#8, Config.nodeAddr, Config.ackCode]

/-- `ParseAck(ok, buf)` (rule R133): the code is not compared with ACK_CODE. -/
def parseAck (ok : Bool) (buf : FrameBuf) : AckVerdict :=
  if ok = false then .drop .malformed
  else if buf[1] ≠ Config.nodeAddr then .drop .address
  else .ack buf[2]

end Sys2Proof.Machine
end

