-- ==== Sys2Proof/Machine/Sequencer.lean ====
section
/-! DEFINITION. One clock cycle of the command sequencer (42_sequencer.md rule R156), one definition per sequencer state. -/
namespace Sys2Proof.Machine

/-- IDLE (rules R152 and R153): a packet offered now is taken, whatever its verdict (rule R151). -/
def idleCycle (s : State) : Result :=
  if s.input.rxValid then
    match parseBatch s.input.rxOk s.input.rxBuf with
    | .drop _ => .next s
    | .bounds n => .next (s.raiseBounds n)
    | .accept n is => .next (s.acceptBatch n is)
  else .next s

/-- ISSUE (rule R154): after the last instruction leave for ACK; else latch the byte at the cursor and start it. -/
def issueCycle (s : State) : Result :=
  if s.k = s.cnt then .next (s.enter .ack)
  else
    match s.fetch with
    | some b => exec (classify b) (s.latch b)
    | none => .fault (.noSuchEntry s.k.toNat)

/-- WAIT (rule R155): the hold and the Finish decode `cur`, not `mem[k]` (10_state.md rule R25). -/
def waitCycle (s : State) : Result :=
  exec (classify s.cur) s

/-- ACK (rules R157 and R158): leaves at `tx_done`; `tx_ok` is ignored. -/
def ackCycle (s : State) : Result :=
  .next (if s.input.txDone then s.enter .idle else s)

/-- FAULT (rule R165): every input but `rst` is ignored. -/
def faultCycle (s : State) : Result :=
  .next s

/-- One cycle before its clock edge: `rst` wins over everything (60_exceptions.md rule R219). -/
def cycleBody (s : State) : Result :=
  if s.input.rst then .next s.applyReset
  else
    match s.st with
    | .idle => idleCycle s
    | .issue => issueCycle s
    | .wait => waitCycle s
    | .ack => ackCycle s
    | .fault => faultCycle s

/-- The clock cycle (rule R156): every right-hand side reads the state at its start (00_scope.md rule R13), and then the
environment moves on. -/
def clockCycle (s : State) : Result :=
  mapNext State.edge (cycleBody s)

/-- The state in which the next cycle fetches and starts exactly the byte `b`: what the acceptance of the one-instruction
batch `[b]` leaves (rule R152), in a cycle without reset (log 8). -/
def State.loadOne (s : State) (b : Byte) : State :=
  { s.acceptBatch 1#8 [b] with inputs := Input.quiet :: s.inputs }

end Sys2Proof.Machine
end

