-- ==== Sys2Proof/Machine/Step.lean ====
section
/-! DEFINITION. The step: one clock cycle (42_sequencer.md rule R156). -/
namespace Sys2Proof.Machine

/-- One clock cycle. -/
def step (s : State) : Host.Outcome State Fault Refusal :=
  clockCycle s

/-- `s` with the one-byte instruction of `nbits` bits `w` where the next step fetches (log 8). -/
def State.withFetchWord (s : State) (nbits w : Nat) : State :=
  s.loadOne (BitVec.ofNat 8 (w % 2 ^ nbits))

end Sys2Proof.Machine
end

