-- ==== Sys2Proof/Laws/State.lean ====
section
/-! SUPPORT. One lemma per field of State and named update, so that no proof unfolds a record update. -/
namespace Sys2Proof.Machine

section
variable (s : State)

/-! ### State.edge -/
@[simp] theorem State.edge_st : (s.edge).st = s.st := rfl
@[simp] theorem State.edge_cnt : (s.edge).cnt = s.cnt := rfl
@[simp] theorem State.edge_k : (s.edge).k = s.k := rfl
@[simp] theorem State.edge_cur : (s.edge).cur = s.cur := rfl
@[simp] theorem State.edge_ticks : (s.edge).ticks = s.ticks := rfl
@[simp] theorem State.edge_mem : (s.edge).mem = s.mem := rfl
@[simp] theorem State.edge_lines : (s.edge).lines = s.lines := rfl
@[simp] theorem State.edge_hb : (s.edge).hb = s.hb := rfl
@[simp] theorem State.edge_fault : (s.edge).fault = s.fault := rfl
@[simp] theorem State.edge_faultCnt : (s.edge).faultCnt = s.faultCnt := rfl
@[simp] theorem State.edge_inputs : (s.edge).inputs = s.inputs.tail := rfl
@[simp] theorem State.edge_cycle : (s.edge).cycle = s.cycle + 1 := rfl
@[simp] theorem State.edge_epoch : (s.edge).epoch = s.epoch := rfl

/-! ### State.latch -/
@[simp] theorem State.latch_st (b : Byte) : (s.latch b).st = s.st := rfl
@[simp] theorem State.latch_cnt (b : Byte) : (s.latch b).cnt = s.cnt := rfl
@[simp] theorem State.latch_k (b : Byte) : (s.latch b).k = s.k := rfl
@[simp] theorem State.latch_cur (b : Byte) : (s.latch b).cur = b := rfl
@[simp] theorem State.latch_ticks (b : Byte) : (s.latch b).ticks = s.ticks := rfl
@[simp] theorem State.latch_mem (b : Byte) : (s.latch b).mem = s.mem := rfl
@[simp] theorem State.latch_lines (b : Byte) : (s.latch b).lines = s.lines := rfl
@[simp] theorem State.latch_hb (b : Byte) : (s.latch b).hb = s.hb := rfl
@[simp] theorem State.latch_fault (b : Byte) : (s.latch b).fault = s.fault := rfl
@[simp] theorem State.latch_faultCnt (b : Byte) : (s.latch b).faultCnt = s.faultCnt := rfl
@[simp] theorem State.latch_inputs (b : Byte) : (s.latch b).inputs = s.inputs := rfl
@[simp] theorem State.latch_cycle (b : Byte) : (s.latch b).cycle = s.cycle := rfl
@[simp] theorem State.latch_epoch (b : Byte) : (s.latch b).epoch = s.epoch := rfl

/-! ### State.setup -/
@[simp] theorem State.setup_st (l : Lines) : (s.setup l).st = .wait := rfl
@[simp] theorem State.setup_cnt (l : Lines) : (s.setup l).cnt = s.cnt := rfl
@[simp] theorem State.setup_k (l : Lines) : (s.setup l).k = s.k := rfl
@[simp] theorem State.setup_cur (l : Lines) : (s.setup l).cur = s.cur := rfl
@[simp] theorem State.setup_ticks (l : Lines) : (s.setup l).ticks = 0#16 := rfl
@[simp] theorem State.setup_mem (l : Lines) : (s.setup l).mem = s.mem := rfl
@[simp] theorem State.setup_lines (l : Lines) : (s.setup l).lines = l := rfl
@[simp] theorem State.setup_hb (l : Lines) : (s.setup l).hb = s.hb := rfl
@[simp] theorem State.setup_fault (l : Lines) : (s.setup l).fault = s.fault := rfl
@[simp] theorem State.setup_faultCnt (l : Lines) : (s.setup l).faultCnt = s.faultCnt := rfl
@[simp] theorem State.setup_inputs (l : Lines) : (s.setup l).inputs = s.inputs := rfl
@[simp] theorem State.setup_cycle (l : Lines) : (s.setup l).cycle = s.cycle := rfl
@[simp] theorem State.setup_epoch (l : Lines) : (s.setup l).epoch = s.epoch := rfl

/-! ### State.finish -/
@[simp] theorem State.finish_st (l : Lines) (h : Bool) : (s.finish l h).st = .issue := rfl
@[simp] theorem State.finish_cnt (l : Lines) (h : Bool) : (s.finish l h).cnt = s.cnt := rfl
@[simp] theorem State.finish_k (l : Lines) (h : Bool) : (s.finish l h).k = s.k + 1#6 := rfl
@[simp] theorem State.finish_cur (l : Lines) (h : Bool) : (s.finish l h).cur = s.cur := rfl
@[simp] theorem State.finish_ticks (l : Lines) (h : Bool) : (s.finish l h).ticks = 0#16 := rfl
@[simp] theorem State.finish_mem (l : Lines) (h : Bool) : (s.finish l h).mem = s.mem := rfl
@[simp] theorem State.finish_lines (l : Lines) (h : Bool) : (s.finish l h).lines = l := rfl
@[simp] theorem State.finish_hb (l : Lines) (h : Bool) : (s.finish l h).hb = h := rfl
@[simp] theorem State.finish_fault (l : Lines) (h : Bool) : (s.finish l h).fault = s.fault := rfl
@[simp] theorem State.finish_faultCnt (l : Lines) (h : Bool) : (s.finish l h).faultCnt = s.faultCnt := rfl
@[simp] theorem State.finish_inputs (l : Lines) (h : Bool) : (s.finish l h).inputs = s.inputs := rfl
@[simp] theorem State.finish_cycle (l : Lines) (h : Bool) : (s.finish l h).cycle = s.cycle := rfl
@[simp] theorem State.finish_epoch (l : Lines) (h : Bool) : (s.finish l h).epoch = s.epoch := rfl

/-! ### State.enter -/
@[simp] theorem State.enter_st (q : SeqState) : (s.enter q).st = q := rfl
@[simp] theorem State.enter_cnt (q : SeqState) : (s.enter q).cnt = s.cnt := rfl
@[simp] theorem State.enter_k (q : SeqState) : (s.enter q).k = s.k := rfl
@[simp] theorem State.enter_cur (q : SeqState) : (s.enter q).cur = s.cur := rfl
@[simp] theorem State.enter_ticks (q : SeqState) : (s.enter q).ticks = s.ticks := rfl
@[simp] theorem State.enter_mem (q : SeqState) : (s.enter q).mem = s.mem := rfl
@[simp] theorem State.enter_lines (q : SeqState) : (s.enter q).lines = s.lines := rfl
@[simp] theorem State.enter_hb (q : SeqState) : (s.enter q).hb = s.hb := rfl
@[simp] theorem State.enter_fault (q : SeqState) : (s.enter q).fault = s.fault := rfl
@[simp] theorem State.enter_faultCnt (q : SeqState) : (s.enter q).faultCnt = s.faultCnt := rfl
@[simp] theorem State.enter_inputs (q : SeqState) : (s.enter q).inputs = s.inputs := rfl
@[simp] theorem State.enter_cycle (q : SeqState) : (s.enter q).cycle = s.cycle := rfl
@[simp] theorem State.enter_epoch (q : SeqState) : (s.enter q).epoch = s.epoch := rfl

/-! ### State.acceptBatch -/
@[simp] theorem State.acceptBatch_st (n : Byte) (is : List Byte) : (s.acceptBatch n is).st = .issue := rfl
@[simp] theorem State.acceptBatch_cnt (n : Byte) (is : List Byte) : (s.acceptBatch n is).cnt = n.setWidth 6 := rfl
@[simp] theorem State.acceptBatch_k (n : Byte) (is : List Byte) : (s.acceptBatch n is).k = 0#6 := rfl
@[simp] theorem State.acceptBatch_cur (n : Byte) (is : List Byte) : (s.acceptBatch n is).cur = s.cur := rfl
@[simp] theorem State.acceptBatch_ticks (n : Byte) (is : List Byte) : (s.acceptBatch n is).ticks = s.ticks := rfl
@[simp] theorem State.acceptBatch_mem (n : Byte) (is : List Byte) : (s.acceptBatch n is).mem = s.mem.writeFrom 0 is := rfl
@[simp] theorem State.acceptBatch_lines (n : Byte) (is : List Byte) : (s.acceptBatch n is).lines = s.lines := rfl
@[simp] theorem State.acceptBatch_hb (n : Byte) (is : List Byte) : (s.acceptBatch n is).hb = s.hb := rfl
@[simp] theorem State.acceptBatch_fault (n : Byte) (is : List Byte) : (s.acceptBatch n is).fault = s.fault := rfl
@[simp] theorem State.acceptBatch_faultCnt (n : Byte) (is : List Byte) : (s.acceptBatch n is).faultCnt = s.faultCnt := rfl
@[simp] theorem State.acceptBatch_inputs (n : Byte) (is : List Byte) : (s.acceptBatch n is).inputs = s.inputs := rfl
@[simp] theorem State.acceptBatch_cycle (n : Byte) (is : List Byte) : (s.acceptBatch n is).cycle = s.cycle := rfl
@[simp] theorem State.acceptBatch_epoch (n : Byte) (is : List Byte) : (s.acceptBatch n is).epoch = s.epoch := rfl

/-! ### State.raiseBounds -/
@[simp] theorem State.raiseBounds_st (n : Byte) : (s.raiseBounds n).st = .fault := rfl
@[simp] theorem State.raiseBounds_cnt (n : Byte) : (s.raiseBounds n).cnt = s.cnt := rfl
@[simp] theorem State.raiseBounds_k (n : Byte) : (s.raiseBounds n).k = s.k := rfl
@[simp] theorem State.raiseBounds_cur (n : Byte) : (s.raiseBounds n).cur = s.cur := rfl
@[simp] theorem State.raiseBounds_ticks (n : Byte) : (s.raiseBounds n).ticks = s.ticks := rfl
@[simp] theorem State.raiseBounds_mem (n : Byte) : (s.raiseBounds n).mem = s.mem := rfl
@[simp] theorem State.raiseBounds_lines (n : Byte) : (s.raiseBounds n).lines = 0b00000#5 := rfl
@[simp] theorem State.raiseBounds_hb (n : Byte) : (s.raiseBounds n).hb = s.hb := rfl
@[simp] theorem State.raiseBounds_fault (n : Byte) : (s.raiseBounds n).fault = true := rfl
@[simp] theorem State.raiseBounds_faultCnt (n : Byte) : (s.raiseBounds n).faultCnt = n := rfl
@[simp] theorem State.raiseBounds_inputs (n : Byte) : (s.raiseBounds n).inputs = s.inputs := rfl
@[simp] theorem State.raiseBounds_cycle (n : Byte) : (s.raiseBounds n).cycle = s.cycle := rfl
@[simp] theorem State.raiseBounds_epoch (n : Byte) : (s.raiseBounds n).epoch = s.epoch := rfl

/-! ### State.applyReset -/
@[simp] theorem State.applyReset_st : (s.applyReset).st = .idle := rfl
@[simp] theorem State.applyReset_cnt : (s.applyReset).cnt = 0#6 := rfl
@[simp] theorem State.applyReset_k : (s.applyReset).k = 0#6 := rfl
@[simp] theorem State.applyReset_cur : (s.applyReset).cur = 0x00#8 := rfl
@[simp] theorem State.applyReset_ticks : (s.applyReset).ticks = 0#16 := rfl
@[simp] theorem State.applyReset_mem : (s.applyReset).mem = [] := rfl
@[simp] theorem State.applyReset_lines : (s.applyReset).lines = 0b00000#5 := rfl
@[simp] theorem State.applyReset_hb : (s.applyReset).hb = false := rfl
@[simp] theorem State.applyReset_fault : (s.applyReset).fault = false := rfl
@[simp] theorem State.applyReset_faultCnt : (s.applyReset).faultCnt = 0x00#8 := rfl
@[simp] theorem State.applyReset_inputs : (s.applyReset).inputs = s.inputs := rfl
@[simp] theorem State.applyReset_cycle : (s.applyReset).cycle = s.cycle := rfl
@[simp] theorem State.applyReset_epoch : (s.applyReset).epoch = s.epoch + 1 := rfl

/-! ### State.loadOne -/
@[simp] theorem State.loadOne_st (b : Byte) : (s.loadOne b).st = .issue := rfl
@[simp] theorem State.loadOne_cnt (b : Byte) : (s.loadOne b).cnt = 1#6 := rfl
@[simp] theorem State.loadOne_k (b : Byte) : (s.loadOne b).k = 0#6 := rfl
@[simp] theorem State.loadOne_cur (b : Byte) : (s.loadOne b).cur = s.cur := rfl
@[simp] theorem State.loadOne_ticks (b : Byte) : (s.loadOne b).ticks = s.ticks := rfl
@[simp] theorem State.loadOne_mem (b : Byte) : (s.loadOne b).mem = s.mem.write 0 b := rfl
@[simp] theorem State.loadOne_lines (b : Byte) : (s.loadOne b).lines = s.lines := rfl
@[simp] theorem State.loadOne_hb (b : Byte) : (s.loadOne b).hb = s.hb := rfl
@[simp] theorem State.loadOne_fault (b : Byte) : (s.loadOne b).fault = s.fault := rfl
@[simp] theorem State.loadOne_faultCnt (b : Byte) : (s.loadOne b).faultCnt = s.faultCnt := rfl
@[simp] theorem State.loadOne_inputs (b : Byte) : (s.loadOne b).inputs = Input.quiet :: s.inputs := rfl
@[simp] theorem State.loadOne_cycle (b : Byte) : (s.loadOne b).cycle = s.cycle := rfl
@[simp] theorem State.loadOne_epoch (b : Byte) : (s.loadOne b).epoch = s.epoch := rfl

/-! ### State.hold: only the tick counter moves -/
@[simp] theorem State.hold_st : s.hold.st = s.st := by unfold State.hold; split <;> rfl
@[simp] theorem State.hold_cnt : s.hold.cnt = s.cnt := by unfold State.hold; split <;> rfl
@[simp] theorem State.hold_k : s.hold.k = s.k := by unfold State.hold; split <;> rfl
@[simp] theorem State.hold_cur : s.hold.cur = s.cur := by unfold State.hold; split <;> rfl
@[simp] theorem State.hold_ticks : s.hold.ticks = if s.input.tickEn then s.ticks + 1#16 else s.ticks := by
  unfold State.hold; split <;> rfl
@[simp] theorem State.hold_mem : s.hold.mem = s.mem := by unfold State.hold; split <;> rfl
@[simp] theorem State.hold_lines : s.hold.lines = s.lines := by unfold State.hold; split <;> rfl
@[simp] theorem State.hold_hb : s.hold.hb = s.hb := by unfold State.hold; split <;> rfl
@[simp] theorem State.hold_fault : s.hold.fault = s.fault := by unfold State.hold; split <;> rfl
@[simp] theorem State.hold_faultCnt : s.hold.faultCnt = s.faultCnt := by unfold State.hold; split <;> rfl
@[simp] theorem State.hold_inputs : s.hold.inputs = s.inputs := by unfold State.hold; split <;> rfl
@[simp] theorem State.hold_cycle : s.hold.cycle = s.cycle := by unfold State.hold; split <;> rfl
@[simp] theorem State.hold_epoch : s.hold.epoch = s.epoch := by unfold State.hold; split <;> rfl

/-! ### The input sample reads only `inputs` and `cycle` -/
@[simp] theorem State.latch_input (b : Byte) : (s.latch b).input = s.input := rfl
@[simp] theorem State.setup_input (l : Lines) : (s.setup l).input = s.input := rfl
@[simp] theorem State.finish_input (l : Lines) (h : Bool) : (s.finish l h).input = s.input := rfl
@[simp] theorem State.enter_input (q : SeqState) : (s.enter q).input = s.input := rfl
@[simp] theorem State.acceptBatch_input (n : Byte) (is : List Byte) : (s.acceptBatch n is).input = s.input := rfl
@[simp] theorem State.raiseBounds_input (n : Byte) : (s.raiseBounds n).input = s.input := rfl
@[simp] theorem State.applyReset_input : (s.applyReset).input = s.input := rfl
@[simp] theorem State.loadOne_input (b : Byte) : (s.loadOne b).input = Input.quiet := rfl
theorem State.input_cons (x : Input) (xs : List Input) (h : s.inputs = x :: xs) : s.input = x := by
  unfold State.input; rw [h]
theorem State.input_nil (h : s.inputs = []) : s.input = Config.freeInput s.cycle := by
  unfold State.input; rw [h]

end

end Sys2Proof.Machine
end

