-- ==== Sys2Proof/Laws/Memory.lean ====
section
/-! SUPPORT. The laws of the batch store: a read after a write, the frame of a write, and that every write keeps the
canonical form. -/
namespace Sys2Proof.Machine

/-- A read after a write gives the value written there and the old value elsewhere. -/
theorem Memory.entry_write (m : Memory) (i : Nat) (v : Byte) (j : Nat) :
    (m.write i v).entry j = if i = j then some v else m.entry j := by
  induction m with
  | nil => simp [Memory.write, Memory.entry]
  | cons c m ih =>
    obtain ⟨a, b⟩ := c
    unfold Memory.write
    split
    · simp [Memory.entry]
    · split
      · subst_vars; simp only [Memory.entry]; split <;> rfl
      · simp only [Memory.entry, ih]; split <;> split <;> first | rfl | omega

/-- A read after writing a list from `i` on. -/
theorem Memory.entry_writeFrom (vs : List Byte) (m : Memory) (i j : Nat) :
    (m.writeFrom i vs).entry j = if i ≤ j ∧ j < i + vs.length then vs[j - i]? else m.entry j := by
  induction vs generalizing m i with
  | nil => rw [if_neg (by simp)]; rfl
  | cons v vs ih =>
    simp only [Memory.writeFrom, ih, Memory.entry_write, List.length_cons]
    by_cases h : i = j
    · subst h; simp
    · by_cases h' : i + 1 ≤ j
      · obtain ⟨d, rfl⟩ : ∃ d, j = i + 1 + d := ⟨j - (i + 1), by omega⟩
        simp only [h', true_and, h, if_false, show i ≤ i + 1 + d by omega,
          show i + 1 + d - i = (i + 1 + d - (i + 1)) + 1 by omega, List.getElem?_cons_succ]
        exact if_congr (by omega) rfl rfl
      · rw [if_neg (by omega), if_neg h, if_neg (by omega)]

/-- What bounds every index of a store from below bounds it after a write of a larger index. -/
theorem Memory.all_write (m : Memory) (a i : Nat) (v : Byte) (ha : a < i)
    (h : m.all (fun c => decide (a < c.1)) = true) : (m.write i v).all (fun c => decide (a < c.1)) = true := by
  induction m with
  | nil => simpa [Memory.write] using ha
  | cons c m ih =>
    simp only [List.all_cons, Bool.and_eq_true, decide_eq_true_eq] at h
    unfold Memory.write
    split
    · simp [List.all_cons, ha, h.1, h.2]
    · split
      · simp [List.all_cons, ha, h.2]
      · simp [List.all_cons, h.1, ih h.2]

/-- A write below MAX_BATCH keeps the canonical form. -/
theorem Memory.wf_write (m : Memory) (i : Nat) (v : Byte) (hi : i < Config.maxBatch) (h : m.wf = true) :
    (m.write i v).wf = true := by
  induction m with
  | nil => simp [Memory.write, Memory.wf, hi]
  | cons c m ih =>
    obtain ⟨a, b⟩ := c
    simp only [Memory.wf, Bool.and_eq_true, decide_eq_true_eq] at h
    obtain ⟨⟨ha, hall⟩, hm⟩ := h
    unfold Memory.write
    split
    case isTrue hlt =>
      have hall' : m.all (fun c => decide (i < c.1)) = true := by
        rw [List.all_eq_true] at hall ⊢
        intro c hc
        have := hall c hc
        simp only [decide_eq_true_eq] at this ⊢
        omega
      simp [Memory.wf, hi, ha, hall, hm, hlt, hall', List.all_cons]
    case isFalse hge =>
      split
      case isTrue heq => subst heq; simp [Memory.wf, ha, hall, hm]
      case isFalse hne =>
        simp only [Memory.wf, Bool.and_eq_true, decide_eq_true_eq]
        exact ⟨⟨ha, Memory.all_write m a i v (by omega) hall⟩, ih hm⟩

/-- Writing a list that ends below MAX_BATCH keeps the canonical form. -/
theorem Memory.wf_writeFrom (vs : List Byte) (m : Memory) (i : Nat) (hi : i + vs.length ≤ Config.maxBatch)
    (h : m.wf = true) : (m.writeFrom i vs).wf = true := by
  induction vs generalizing m i with
  | nil => exact h
  | cons v vs ih =>
    simp only [List.length_cons] at hi
    exact ih _ _ (by omega) (Memory.wf_write m i v (by omega) h)

/-- Nothing is listed at reset. -/
theorem Memory.reset_wf : State.reset.mem.wf = true := rfl

/-- A listed entry reads as the byte written there. -/
theorem State.readEntry_of_entry (s : State) (i : Nat) (b : Byte) (h : s.mem.entry i = some b) :
    s.readEntry i = b := by
  simp [State.readEntry, h]

/-- The fetch of a listed entry below MAX_BATCH. -/
theorem State.fetch_of_entry (s : State) (b : Byte) (hk : s.k.toNat < Config.maxBatch)
    (h : s.mem.entry s.k.toNat = some b) : s.fetch = some b := by
  simp [State.fetch, hk, State.readEntry_of_entry s _ b h]

end Sys2Proof.Machine
end

