-- ==== Sys2Proof/Machine/Pulse.lean ====
section
/-! DEFINITION. The summary table of 43_motion.md rule R180 as functions of the instruction, and the default arm of rule
R188 over a byte-wide opcode. Safety.lean, the observation and the statements speak through it; the meanings of Motion.lean
are written from rules R182 to R187 on their own. -/
namespace Sys2Proof.Machine

/-- `Setup(b, lines)` (rule R180). -/
def setupLines (i : Instr) (l : Lines) : Lines :=
  match i with
  | .stop => lineNone
  | .detonate _ => lineD
  | .forward _ => lineF
  | .backward _ => lineB
  | .turnLeft => (l &&& ~~~lineLR) ||| lineL
  | .turnRight _ => (l &&& ~~~lineLR) ||| lineR

/-- `W(b)`, the exact product of 43_motion.md rule R191. -/
def holdLength (i : Instr) : Nat :=
  match i with
  | .stop => 0
  | .detonate _ => 0
  | .forward a => Config.distTime * a.toNat
  | .backward a => Config.distTime * a.toNat
  | .turnLeft => Config.distTime * Config.turnUnits
  | .turnRight _ => Config.distTime * Config.turnUnits

/-- The line vector `Finish(b, lines, hb)` writes (rule R180). -/
def finishLines (i : Instr) (l : Lines) : Lines :=
  match i with
  | .stop => l
  | .detonate _ => l
  | .forward _ => l &&& ~~~lineF
  | .backward _ => l &&& ~~~lineB
  | .turnLeft => l &&& ~~~lineLR
  | .turnRight _ => l &&& ~~~lineLR

/-- Whether the Finish toggles the heartbeat (rule R180). -/
def togglesHb (i : Instr) : Bool :=
  match i with
  | .stop => true
  | .detonate _ => true
  | .forward _ => true
  | .backward _ => true
  | .turnLeft => false
  | .turnRight _ => false

/-- The heartbeat `Finish(b, lines, hb)` writes. -/
def finishHb (i : Instr) (hb : Bool) : Bool := xor hb (togglesHb i)

/-- The lines after a whole instruction. -/
def linesAfter (i : Instr) (l : Lines) : Lines := finishLines i (setupLines i l)

/-- The lines after the instructions of a batch, in order (20_memory.md rule R62). -/
def batchLines (is : List Instr) (l : Lines) : Lines := is.foldl (fun l i => linesAfter i l) l

/-- The heartbeat after the instructions of a batch. -/
def batchHb (is : List Instr) (hb : Bool) : Bool := is.foldl (fun h i => finishHb i h) hb

/-- The cycles from the first ISSUE to the last when every cycle is a tick: `Σ (W_i + 2) + 1` (42_sequencer.md rule
R162). -/
def executeCycles : List Instr → Nat
  | [] => 1
  | i :: is => holdLength i + 2 + executeCycles is

/-! ### The default arm, for an opcode wider than two bits (rule R188) -/

/-- The instruction of a masked opcode value and an argument, or none for an unrecognised opcode. -/
def classifyV (opv : Byte) (arg : Arg) : Option Instr :=
  if opv = 0x00#8 then some (OpClass.stopOrDetonate.instr arg)
  else if opv = 0x20#8 then some (OpClass.forward.instr arg)
  else if opv = 0x40#8 then some (OpClass.backward.instr arg)
  else if opv = 0x60#8 then some (OpClass.turn.instr arg)
  else none

/-- Setup with the default arm: a safety stop clears every line. -/
def setupLinesV (opv : Byte) (arg : Arg) (l : Lines) : Lines :=
  match classifyV opv arg with
  | some i => setupLines i l
  | none => lineNone

/-- The hold with the default arm: none. -/
def holdLengthV (opv : Byte) (arg : Arg) : Nat :=
  match classifyV opv arg with
  | some i => holdLength i
  | none => 0

/-- Finish with the default arm: the lines stay. -/
def finishLinesV (opv : Byte) (arg : Arg) (l : Lines) : Lines :=
  match classifyV opv arg with
  | some i => finishLines i l
  | none => l

/-- The heartbeat with the default arm: unchanged, and nothing is reported (60_exceptions.md rule R215). -/
def finishHbV (opv : Byte) (arg : Arg) (hb : Bool) : Bool :=
  match classifyV opv arg with
  | some i => finishHb i hb
  | none => hb

/-- One clock cycle of a decoded opcode and argument, the opcode as wide as a byte: the default arm's safety stop writes
`lines`, `ticks`, `k` and `st` as every instruction does and leaves `hb`. -/
def execV (opv : Byte) (arg : Arg) (s : State) : Result :=
  instrCycle (setupLinesV opv arg s.lines) (BitVec.ofNat 16 (holdLengthV opv arg)) (finishLinesV opv arg s.lines)
    (finishHbV opv arg s.hb) s

end Sys2Proof.Machine
end

