-- ==== Sys2Proof/Machine/Observe.lean ====
section
/-! DEFINITION. What is seen of a run: the output ports (10_state.md rule R33), the error causes (60_exceptions.md rule
R210) and the observation (42_sequencer.md rule R167). -/
namespace Sys2Proof.Machine

/-- The output ports (10_state.md rule R33). -/
structure Outputs where
  act : Lines
  hbOut : Bool
  faultOut : Bool
  rxReady : Bool
  txReq : Bool
  txLen : Byte
  txFrame : List Byte
  deriving DecidableEq, Repr

/-- Every output is a function of the registers alone (rule R33). -/
def State.outputs (s : State) : Outputs :=
  { act := s.lines, hbOut := s.hb, faultOut := s.fault, rxReady := decide (s.st = .idle),
    txReq := decide (s.st = .ack), txLen := 3#8, txFrame := frameAck }

/-- A transmit that ended: the frame and the radio's `tx_ok` (42_sequencer.md rule R158). -/
structure Transmission where
  frame : List Byte
  ok : Bool
  deriving DecidableEq, Repr

/-- The transmit that ends in this cycle: a cycle of ACK with `tx_done` and without reset (log 12). -/
def State.transmission (s : State) : Option Transmission :=
  if s.input.rst = false ∧ s.st = .ack ∧ s.input.txDone = true then some ⟨s.outputs.txFrame, s.input.txOk⟩ else none

/-- Whether this cycle counts a tick (42_sequencer.md rule R160). -/
def State.countsTick (s : State) : Bool :=
  decide (s.input.rst = false ∧ s.st = .wait ∧ s.ticks.toNat ≠ holdLength (classify s.cur) ∧ s.input.tickEn = true)

/-- The cause code of this cycle's error, if it has one (60_exceptions.md rule R210). The block itself detects no lost
ack (rule R216). -/
def State.cause (s : State) : Option Cause :=
  if s.input.rst then none
  else
    match s.st with
    | .idle =>
      if s.input.rxValid then
        match parseBatch s.input.rxOk s.input.rxBuf with
        | .drop .malformed => some .dropMalformed
        | .drop .address => some .dropAddress
        | .bounds _ => some .faultBounds
        | .accept _ _ => none
      else none
    | .ack => if s.input.txDone && !s.input.txOk then some .ackLost else none
    | .issue => none
    | .wait => none
    | .fault => none

/-- What one cycle shows: the outputs at its start, whether it counts a tick, and the transmit that ends in it. -/
structure CycleRecord where
  cycle : Nat
  act : Lines
  hbOut : Bool
  faultOut : Bool
  counted : Bool
  sent : Option Transmission
  deriving DecidableEq, Repr

/-- The record of the current cycle. -/
def State.record (s : State) : CycleRecord :=
  { cycle := s.cycle, act := s.outputs.act, hbOut := s.outputs.hbOut, faultOut := s.outputs.faultOut,
    counted := s.countsTick, sent := s.transmission }

/-- The next `n` cycles, ending at the first stop. -/
def run : Nat → State → Result
  | 0, s => .next s
  | n + 1, s =>
    match step s with
    | .next t => run n t
    | .fault r => .fault r
    | .refused r => .refused r

/-- The records of the next `n` cycles, ending at the first stop. -/
def trace : Nat → State → List CycleRecord
  | 0, _ => []
  | n + 1, s =>
    s.record ::
      match step s with
      | .next t => trace n t
      | .fault _ => []
      | .refused _ => []

/-- The transmitted frames of a run, each with its `tx_ok`, stamped with the cycle. -/
def transmissions (l : List CycleRecord) : List (Nat × Transmission) :=
  l.filterMap fun r => r.sent.map fun x => (r.cycle, x)

/-- The ticks a run counts. -/
def countedTicks (l : List CycleRecord) : Nat :=
  (l.filter CycleRecord.counted).length

/-- A stretch of the observation: output values, the cycle they begin at, and the ticks counted while they hold. -/
structure Segment where
  start : Nat
  act : Lines
  hbOut : Bool
  faultOut : Bool
  ticks : Nat
  deriving DecidableEq, Repr

/-- The observation of 42_sequencer.md rule R167: the values of (act, hb_out, fault_out) with the cycle of each change, and
the ticks counted between changes. -/
def segments : List CycleRecord → List Segment
  | [] => []
  | r :: rs =>
    match segments rs with
    | [] => [⟨r.cycle, r.act, r.hbOut, r.faultOut, r.counted.toNat⟩]
    | g :: gs =>
      if g.act = r.act ∧ g.hbOut = r.hbOut ∧ g.faultOut = r.faultOut then
        { g with start := r.cycle, ticks := g.ticks + r.counted.toNat } :: gs
      else ⟨r.cycle, r.act, r.hbOut, r.faultOut, r.counted.toNat⟩ :: g :: gs

/-- The observation of the next `n` cycles: the stretches of the outputs and the transmitted frames (rule R14). -/
def observation (n : Nat) (s : State) : List Segment × List (Nat × Transmission) :=
  (segments (trace n s), transmissions (trace n s))

end Sys2Proof.Machine
end

