-- ==== Sys2Proof/Safety.lean ====
section
/-! DEFINITION. The invariant of the sequencer, and the terms in which claims speak of runs and environments. -/
namespace Sys2Proof.Machine

/-- {} or {D}: the lines at an instruction boundary (43_motion.md rule R189). -/
def boundaryLines (l : Lines) : Bool := l == lineNone || l == lineD

/-- At most one of F, L, B, R is asserted, and D is never asserted with F or B (43_motion.md rule R190). -/
def exclusiveLines (l : Lines) : Bool :=
  l == lineNone || l == lineF || l == lineB || l == lineL || l == lineR ||
    l == lineD || l == (lineL ||| lineD) || l == (lineR ||| lineD)

/-- What holds at reset and in every state a step leads to from a state where it holds. -/
structure Inv (s : State) : Prop where
  /-- The batch store keeps its canonical form. -/
  memWf : s.mem.wf = true
  /-- cnt ≤ MAX_BATCH (10_state.md rule R23). -/
  cntBound : s.cnt.toNat ≤ Config.maxBatch
  /-- The cursor never exceeds the count (10_state.md rule R22). -/
  cursorBound : s.k.toNat ≤ s.cnt.toNat
  /-- WAIT holds an instruction of the batch (42_sequencer.md rule R155). -/
  waitBound : s.st = .wait → s.k.toNat < s.cnt.toNat
  /-- Outside a batch's execution the cursor is at the count. -/
  atCount : s.st ≠ .issue → s.st ≠ .wait → s.k = s.cnt
  /-- Every entry of the batch is written (20_memory.md rule R58). -/
  written : s.st = .issue ∨ s.st = .wait → ∀ j, j < s.cnt.toNat → (s.mem.entry j).isSome = true
  /-- `cur` is the entry at the cursor (10_state.md rule R25). -/
  latched : s.st = .wait → s.mem.entry s.k.toNat = some s.cur
  /-- The counter never exceeds the hold (10_state.md rule R26). -/
  ticksBound : s.st = .wait → s.ticks.toNat ≤ holdLength (classify s.cur)
  /-- The counter is clear outside WAIT (43_motion.md rule R180). -/
  ticksClear : s.st ≠ .wait → s.ticks = 0#16
  /-- The lines at a boundary (43_motion.md rule R189). -/
  linesBoundary : s.st ≠ .wait → boundaryLines s.lines = true
  /-- The lines during a hold are those of a Setup at a boundary. -/
  linesHeld : s.st = .wait → ∃ l, boundaryLines l = true ∧ s.lines = setupLines (classify s.cur) l
  /-- FAULT is the state with the flag set (42_sequencer.md rule R165). -/
  faultFlag : s.fault = true ↔ s.st = .fault
  /-- In FAULT every line is clear (42_sequencer.md rule R165). -/
  faultLines : s.st = .fault → s.lines = lineNone
  /-- `fault_cnt` records a count above MAX_BATCH (10_state.md rule R31). -/
  faultCountSet : s.fault = true → Config.maxBatch < s.faultCnt.toNat
  /-- `fault_cnt` is written only together with the flag (10_state.md rule R31). -/
  faultCountClear : s.fault = false → s.faultCnt = 0x00#8

/-- A batch is being executed or acknowledged: ISSUE, WAIT or ACK (42_sequencer.md rule R159). -/
def State.busy (s : State) : Bool :=
  s.st == .issue || s.st == .wait || s.st == .ack

/-- The registers of 10_state.md rule R20, and none of the model's own fields, agree. -/
def sameRegisters (s t : State) : Prop :=
  s.st = t.st ∧ s.cnt = t.cnt ∧ s.k = t.k ∧ s.cur = t.cur ∧ s.ticks = t.ticks ∧ s.mem = t.mem ∧ s.lines = t.lines ∧
    s.hb = t.hb ∧ s.fault = t.fault ∧ s.faultCnt = t.faultCnt

/-- No reset in the next `n` cycles of a run. -/
def noReset (n : Nat) (s : State) : Prop :=
  ∀ j, j < n → ∀ t, run j s = .next t → t.input.rst = false

/-- The cycles of a list of samples that are ticks. -/
def tickCount (xs : List Input) : Nat := (xs.filter Input.tickEn).length

end Sys2Proof.Machine
end

