-- ==== Sys2Proof/Laws/Ops.lean ====
section
/-! SUPPORT. One lemma per shared operation that says all it can do: the outcome map, the cycle of an instruction, the
meanings through the table of 43_motion.md rule R180, the frame parser. -/
namespace Sys2Proof.Machine

@[simp] theorem mapNext_next (f : State → State) (s : State) : mapNext f (.next s) = .next (f s) := rfl
@[simp] theorem mapNext_fault (f : State → State) (r : Fault) : mapNext f (.fault r) = .fault r := rfl
@[simp] theorem mapNext_refused (f : State → State) (r : Refusal) : mapNext f (.refused r) = .refused r := rfl

/-- A mapped outcome is a next state exactly when the outcome is one. -/
theorem mapNext_eq_next (f : State → State) (o : Result) (t : State) :
    mapNext f o = .next t ↔ ∃ u, o = .next u ∧ f u = t := by
  cases o <;> simp [mapNext]

/-! ### The hold lengths -/

/-- The longest hold is 15500 ticks. -/
theorem holdLength_le (i : Instr) : holdLength i ≤ 15500 := by
  cases i <;> simp [holdLength, Config.distTime, Config.turnUnits] <;> omega

/-- A hold length as a tick count is exact. -/
theorem holdLength_toNat (i : Instr) : (BitVec.ofNat 16 (holdLength i)).toNat = holdLength i := by
  have := holdLength_le i
  simp only [BitVec.toNat_ofNat]; omega

/-- The exit test of WAIT on numbers. -/
theorem ticks_eq_hold (t : Ticks) (i : Instr) : t = BitVec.ofNat 16 (holdLength i) ↔ t.toNat = holdLength i := by
  rw [← BitVec.toNat_inj, holdLength_toNat]

/-! ### The meanings -/

/-- Every meaning is the cycle of its row of the summary table (rule R180). -/
theorem exec_eq_instrCycle (i : Instr) (s : State) :
    exec i s = instrCycle (setupLines i s.lines) (BitVec.ofNat 16 (holdLength i)) (finishLines i s.lines)
      (finishHb i s.hb) s := by
  cases i <;> simp [exec, execStop, execDetonate, execForward, execBackward, execTurnLeft, execTurnRight, setupLines,
    holdLength, finishLines, finishHb, togglesHb, toggleHb, keepHb, scaledHold, turnHold]

/-- A meaning in ISSUE is its Setup. -/
theorem exec_issue (i : Instr) (s : State) (h : s.st = .issue) : exec i s = .next (s.setup (setupLines i s.lines)) := by
  simp [exec_eq_instrCycle, instrCycle, h]

/-- A meaning in WAIT at the end of its hold is its Finish. -/
theorem exec_finish (i : Instr) (s : State) (h : s.st = .wait) (ht : s.ticks.toNat = holdLength i) :
    exec i s = .next (s.finish (finishLines i s.lines) (finishHb i s.hb)) := by
  simp [exec_eq_instrCycle, instrCycle, h, (ticks_eq_hold s.ticks i).2 ht]

/-- A meaning in WAIT before the end of its hold counts the cycle if it is a tick. -/
theorem exec_hold (i : Instr) (s : State) (h : s.st = .wait) (ht : s.ticks.toNat ≠ holdLength i) :
    exec i s = .next s.hold := by
  have : s.ticks ≠ BitVec.ofNat 16 (holdLength i) := fun e => ht ((ticks_eq_hold s.ticks i).1 e)
  simp [exec_eq_instrCycle, instrCycle, h, this]

/-- No meaning runs outside ISSUE and WAIT. -/
theorem exec_not_executing (i : Instr) (s : State) (h₁ : s.st ≠ .issue) (h₂ : s.st ≠ .wait) :
    exec i s = .refused .notExecuting := by
  rw [exec_eq_instrCycle]
  cases h : s.st <;> simp_all [instrCycle]

/-- Everything a meaning can do when it answers a next state. -/
theorem exec_next_cases {i : Instr} {s t : State} (h : exec i s = .next t) :
    (s.st = .issue ∧ t = s.setup (setupLines i s.lines)) ∨
    (s.st = .wait ∧ s.ticks.toNat = holdLength i ∧ t = s.finish (finishLines i s.lines) (finishHb i s.hb)) ∨
    (s.st = .wait ∧ s.ticks.toNat ≠ holdLength i ∧ t = s.hold) := by
  by_cases h₁ : s.st = .issue
  · rw [exec_issue i s h₁] at h; cases h; exact .inl ⟨h₁, rfl⟩
  · by_cases h₂ : s.st = .wait
    · by_cases ht : s.ticks.toNat = holdLength i
      · rw [exec_finish i s h₂ ht] at h; cases h; exact .inr (.inl ⟨h₂, ht, rfl⟩)
      · rw [exec_hold i s h₂ ht] at h; cases h; exact .inr (.inr ⟨h₂, ht, rfl⟩)
    · rw [exec_not_executing i s h₁ h₂] at h; cases h

/-! ### The framer -/

/-- Everything an accepted call of the batch framer says (41_framer.md rule R121). -/
theorem frameBatch_ok_iff (n : Nat) (is f : List Byte) :
    frameBatch n is = .ok f ↔ n ≤ Config.maxBatch ∧ is.length = n ∧
      f = [BitVec.ofNat 8 (n + 2), Config.nodeAddr, BitVec.ofNat 8 n] ++ is := by
  unfold frameBatch
  split
  case isTrue h => exact ⟨fun e => (by cases e), fun e => absurd h (by omega)⟩
  case isFalse h => exact ⟨fun e => by cases e; exact ⟨by omega, by omega, rfl⟩, fun e => by rw [e.2.2]⟩

/-- What the batch framer refuses. -/
theorem frameBatch_error_of (n : Nat) (is : List Byte) (h : Config.maxBatch < n ∨ is.length ≠ n) :
    frameBatch n is = .error .batchTooLong :=
  if_pos h

/-- The ports carry the frame of the entries used (10_state.md rule R34). -/
theorem frameBatchPort_of_ok (n : Index) (instr : InstrBuf) (f : List Byte)
    (h : frameBatch n.toNat (instr.toList.take n.toNat) = .ok f) :
    frameBatchPort n instr = .ok (padFrame f [], n.setWidth 8 + 3#8) := by
  simp [frameBatchPort, h]

/-! ### The frame parser -/

/-- The extracted instruction bytes are as many as the count says, up to MAX_BATCH. -/
theorem frameInstrs_length (buf : FrameBuf) (n : Nat) : (frameInstrs buf n).length = min n 50 := by
  simp [frameInstrs]

/-- Instruction byte `j` is frame byte `3 + j`. -/
theorem frameInstrs_getElem? (buf : FrameBuf) (n j : Nat) :
    (frameInstrs buf n)[j]? = if j < n then buf.toList[3 + j]? else none := by
  simp [frameInstrs, List.getElem?_take]

/-- Everything an `Accept` says (41_framer.md rule R127). -/
theorem parseBatch_accept {ok : Bool} {buf : FrameBuf} {n : Byte} {is : List Byte}
    (h : parseBatch ok buf = .accept n is) :
    ok = true ∧ buf[1] = Config.nodeAddr ∧ n = buf[2] ∧ n.toNat ≤ Config.maxBatch ∧
      is = frameInstrs buf n.toNat ∧ is.length = n.toNat := by
  unfold parseBatch at h
  repeat' split at h
  all_goals simp_all only [BatchVerdict.accept.injEq, reduceCtorEq]
  obtain ⟨rfl, rfl⟩ := h
  refine ⟨by simp_all, by simp_all, by simp, by omega, by simp, ?_⟩
  have := frameInstrs_length buf buf[2].toNat
  simp only [Config.maxBatch] at *
  omega

/-- Everything a `Fault(Bounds, n)` says (41_framer.md rule R126). -/
theorem parseBatch_bounds {ok : Bool} {buf : FrameBuf} {n : Byte} (h : parseBatch ok buf = .bounds n) :
    ok = true ∧ buf[1] = Config.nodeAddr ∧ n = buf[2] ∧ Config.maxBatch < n.toNat := by
  unfold parseBatch at h
  repeat' split at h
  all_goals simp_all

/-- Everything a drop says (41_framer.md rules R124 and R125). -/
theorem parseBatch_drop {ok : Bool} {buf : FrameBuf} {r : DropReason} (h : parseBatch ok buf = .drop r) :
    (ok = false ∧ r = .malformed) ∨ (ok = true ∧ buf[1] ≠ Config.nodeAddr ∧ r = .address) := by
  unfold parseBatch at h
  repeat' split at h
  all_goals simp_all

end Sys2Proof.Machine
end

