-- ==== Sys2Proof/Laws/Step.lean ====
section
/-! SUPPORT. What one clock cycle does in each sequencer state, the inversion of the step, and the run of several cycles. -/
namespace Sys2Proof.Machine

theorem step_of_reset (s : State) (h : s.input.rst = true) : step s = .next s.applyReset.edge := by
  simp [step, clockCycle, cycleBody, h]

theorem step_of_idle_skip (s : State) (hr : s.input.rst = false) (hs : s.st = .idle) (h : s.input.rxValid = false) :
    step s = .next s.edge := by
  simp [step, clockCycle, cycleBody, hr, hs, idleCycle, h]

theorem step_of_idle_drop (s : State) (hr : s.input.rst = false) (hs : s.st = .idle) (hv : s.input.rxValid = true)
    (r : DropReason) (h : parseBatch s.input.rxOk s.input.rxBuf = .drop r) : step s = .next s.edge := by
  simp [step, clockCycle, cycleBody, hr, hs, idleCycle, hv, h]

theorem step_of_idle_bounds (s : State) (hr : s.input.rst = false) (hs : s.st = .idle) (hv : s.input.rxValid = true)
    (n : Byte) (h : parseBatch s.input.rxOk s.input.rxBuf = .bounds n) : step s = .next (s.raiseBounds n).edge := by
  simp [step, clockCycle, cycleBody, hr, hs, idleCycle, hv, h]

theorem step_of_idle_accept (s : State) (hr : s.input.rst = false) (hs : s.st = .idle) (hv : s.input.rxValid = true)
    (n : Byte) (is : List Byte) (h : parseBatch s.input.rxOk s.input.rxBuf = .accept n is) :
    step s = .next (s.acceptBatch n is).edge := by
  simp [step, clockCycle, cycleBody, hr, hs, idleCycle, hv, h]

theorem step_of_issue_done (s : State) (hr : s.input.rst = false) (hs : s.st = .issue) (h : s.k = s.cnt) :
    step s = .next (s.enter .ack).edge := by
  simp [step, clockCycle, cycleBody, hr, hs, issueCycle, h]

theorem step_of_issue_start (s : State) (hr : s.input.rst = false) (hs : s.st = .issue) (hk : s.k ≠ s.cnt) (b : Byte)
    (h : s.fetch = some b) : step s = .next ((s.latch b).setup (setupLines (classify b) s.lines)).edge := by
  simp [step, clockCycle, cycleBody, hr, hs, issueCycle, hk, h, exec_issue (classify b) (s.latch b) hs]

theorem step_of_wait_finish (s : State) (hr : s.input.rst = false) (hs : s.st = .wait)
    (h : s.ticks.toNat = holdLength (classify s.cur)) :
    step s = .next (s.finish (finishLines (classify s.cur) s.lines) (finishHb (classify s.cur) s.hb)).edge := by
  simp [step, clockCycle, cycleBody, hr, hs, waitCycle, exec_finish _ s hs h]

theorem step_of_wait_hold (s : State) (hr : s.input.rst = false) (hs : s.st = .wait)
    (h : s.ticks.toNat ≠ holdLength (classify s.cur)) : step s = .next s.hold.edge := by
  simp [step, clockCycle, cycleBody, hr, hs, waitCycle, exec_hold _ s hs h]

theorem step_of_ack_done (s : State) (hr : s.input.rst = false) (hs : s.st = .ack) (h : s.input.txDone = true) :
    step s = .next (s.enter .idle).edge := by
  simp [step, clockCycle, cycleBody, hr, hs, ackCycle, h]

theorem step_of_ack_wait (s : State) (hr : s.input.rst = false) (hs : s.st = .ack) (h : s.input.txDone = false) :
    step s = .next s.edge := by
  simp [step, clockCycle, cycleBody, hr, hs, ackCycle, h]

theorem step_of_fault (s : State) (hr : s.input.rst = false) (hs : s.st = .fault) : step s = .next s.edge := by
  simp [step, clockCycle, cycleBody, hr, hs, faultCycle]

/-- Everything a clock cycle without reset can do before its edge. -/
inductive CycleCase (s : State) : State → Prop where
  | idleSkip : s.st = .idle → s.input.rxValid = false → CycleCase s s
  | idleDrop (r : DropReason) : s.st = .idle → s.input.rxValid = true →
      parseBatch s.input.rxOk s.input.rxBuf = .drop r → CycleCase s s
  | idleBounds (n : Byte) : s.st = .idle → s.input.rxValid = true →
      parseBatch s.input.rxOk s.input.rxBuf = .bounds n → CycleCase s (s.raiseBounds n)
  | idleAccept (n : Byte) (is : List Byte) : s.st = .idle → s.input.rxValid = true →
      parseBatch s.input.rxOk s.input.rxBuf = .accept n is → CycleCase s (s.acceptBatch n is)
  | issueDone : s.st = .issue → s.k = s.cnt → CycleCase s (s.enter .ack)
  | issueStart (b : Byte) : s.st = .issue → s.k ≠ s.cnt → s.fetch = some b →
      CycleCase s ((s.latch b).setup (setupLines (classify b) s.lines))
  | waitFinish : s.st = .wait → s.ticks.toNat = holdLength (classify s.cur) →
      CycleCase s (s.finish (finishLines (classify s.cur) s.lines) (finishHb (classify s.cur) s.hb))
  | waitHold : s.st = .wait → s.ticks.toNat ≠ holdLength (classify s.cur) → CycleCase s s.hold
  | ackDone : s.st = .ack → s.input.txDone = true → CycleCase s (s.enter .idle)
  | ackWait : s.st = .ack → s.input.txDone = false → CycleCase s s
  | stopped : s.st = .fault → CycleCase s s

/-- Each case is what the step does. -/
theorem CycleCase.step_eq {s u : State} (hr : s.input.rst = false) (h : CycleCase s u) : step s = .next u.edge := by
  cases h with
  | idleSkip hs h => exact step_of_idle_skip s hr hs h
  | idleDrop r hs hv h => exact step_of_idle_drop s hr hs hv r h
  | idleBounds n hs hv h => exact step_of_idle_bounds s hr hs hv n h
  | idleAccept n is hs hv h => exact step_of_idle_accept s hr hs hv n is h
  | issueDone hs h => exact step_of_issue_done s hr hs h
  | issueStart b hs hk h => exact step_of_issue_start s hr hs hk b h
  | waitFinish hs h => exact step_of_wait_finish s hr hs h
  | waitHold hs h => exact step_of_wait_hold s hr hs h
  | ackDone hs h => exact step_of_ack_done s hr hs h
  | ackWait hs h => exact step_of_ack_wait s hr hs h
  | stopped hs => exact step_of_fault s hr hs

/-- A cycle without reset is one of the cases, or the fetch stops it. -/
theorem cycle_cases (s : State) :
    (∃ u, CycleCase s u) ∨ (s.st = .issue ∧ s.k ≠ s.cnt ∧ s.fetch = none) := by
  cases hs : s.st with
  | idle =>
    cases hv : s.input.rxValid with
    | false => exact .inl ⟨_, .idleSkip hs hv⟩
    | true =>
      cases h : parseBatch s.input.rxOk s.input.rxBuf with
      | drop r => exact .inl ⟨_, .idleDrop r hs hv h⟩
      | bounds n => exact .inl ⟨_, .idleBounds n hs hv h⟩
      | accept n is => exact .inl ⟨_, .idleAccept n is hs hv h⟩
  | issue =>
    by_cases hk : s.k = s.cnt
    · exact .inl ⟨_, .issueDone hs hk⟩
    · cases hf : s.fetch with
      | none => exact .inr ⟨rfl, hk, rfl⟩
      | some b => exact .inl ⟨_, .issueStart b hs hk hf⟩
  | wait =>
    by_cases ht : s.ticks.toNat = holdLength (classify s.cur)
    · exact .inl ⟨_, .waitFinish hs ht⟩
    · exact .inl ⟨_, .waitHold hs ht⟩
  | ack =>
    cases hd : s.input.txDone with
    | true => exact .inl ⟨_, .ackDone hs hd⟩
    | false => exact .inl ⟨_, .ackWait hs hd⟩
  | fault => exact .inl ⟨_, .stopped hs⟩

/-- A fetch beyond the store stops the step. -/
theorem step_of_no_entry (s : State) (hr : s.input.rst = false) (hs : s.st = .issue) (hk : s.k ≠ s.cnt)
    (h : s.fetch = none) : step s = .fault (.noSuchEntry s.k.toNat) := by
  simp [step, clockCycle, cycleBody, hr, hs, issueCycle, hk, h]

/-- The inversion of the step: a next state comes from reset or from one of the cases. -/
theorem step_next_cases {s t : State} (h : step s = .next t) :
    (s.input.rst = true ∧ t = s.applyReset.edge) ∨ (s.input.rst = false ∧ ∃ u, CycleCase s u ∧ t = u.edge) := by
  cases hr : s.input.rst with
  | true => rw [step_of_reset s hr] at h; cases h; exact .inl ⟨rfl, rfl⟩
  | false =>
    rcases cycle_cases s with ⟨u, hu⟩ | ⟨hs, hk, hf⟩
    · rw [hu.step_eq hr] at h; cases h; exact .inr ⟨rfl, u, hu, rfl⟩
    · rw [step_of_no_entry s hr hs hk hf] at h; cases h

/-! ### Runs -/

@[simp] theorem run_zero (s : State) : run 0 s = .next s := rfl

/-- A run goes on after a step. -/
theorem run_succ_of_step {s t : State} (n : Nat) (h : step s = .next t) : run (n + 1) s = run n t := by
  simp [run, h]

/-- A run whose first part ends in a next state goes on from there. -/
theorem run_add {s t : State} {n : Nat} (m : Nat) (h : run n s = .next t) : run (n + m) s = run m t := by
  induction n generalizing s with
  | zero => cases h; rw [Nat.zero_add]
  | succ n ih =>
    rw [show n + 1 + m = n + m + 1 by omega]
    simp only [run] at h ⊢
    split at h
    · rename_i u hu; exact ih h
    · cases h
    · cases h

@[simp] theorem trace_zero (s : State) : trace 0 s = [] := rfl

/-- The trace goes on after a step. -/
theorem trace_succ_of_step {s t : State} (n : Nat) (h : step s = .next t) :
    trace (n + 1) s = s.record :: trace n t := by
  simp [trace, h]

/-- The trace of a run in two parts. -/
theorem trace_add {s t : State} {n : Nat} (m : Nat) (h : run n s = .next t) :
    trace (n + m) s = trace n s ++ trace m t := by
  induction n generalizing s with
  | zero => cases h; simp
  | succ n ih =>
    rw [show n + 1 + m = n + m + 1 by omega]
    simp only [run] at h
    simp only [trace]
    split at h
    · simp [ih h]
    · cases h
    · cases h

/-- Transmissions of a trace in two parts. -/
@[simp] theorem transmissions_append (l m : List CycleRecord) :
    transmissions (l ++ m) = transmissions l ++ transmissions m := by
  simp [transmissions]

/-- Counted ticks of a trace in two parts. -/
@[simp] theorem countedTicks_append (l m : List CycleRecord) :
    countedTicks (l ++ m) = countedTicks l + countedTicks m := by
  simp [countedTicks]

end Sys2Proof.Machine
end

