-- ==== Sys2Proof/Machine/Assembler.lean ====
section
/-! DEFINITION. The assembler syntax of 30_encoding.md rule R83, on texts as lists of characters. Both directions are
functions of a model's inputs, not hardware (60_exceptions.md rule R217). -/
namespace Sys2Proof.Machine

/-- A text. -/
abbrev Text := List Char

/-- How a name is spelled. -/
def asmText : AsmName → Text
  | .stop => ['S', 'T', 'O', 'P']
  | .detonate => ['D', 'E', 'T', 'O', 'N', 'A', 'T', 'E']
  | .forward => ['F', 'O', 'R', 'W', 'A', 'R', 'D']
  | .backward => ['B', 'A', 'C', 'K', 'W', 'A', 'R', 'D']
  | .turnLeft => ['T', 'U', 'R', 'N', '_', 'L', 'E', 'F', 'T']
  | .turnRight => ['T', 'U', 'R', 'N', '_', 'R', 'I', 'G', 'H', 'T']
  | .stopOrDetonate => ['S', 'T', 'O', 'P', '_', 'O', 'R', '_', 'D', 'E', 'T', 'O', 'N', 'A', 'T', 'E']
  | .turn => ['T', 'U', 'R', 'N']

/-- Every name of rule R83, the canonical ones first. -/
def asmNames : List AsmName :=
  [.stop, .detonate, .forward, .backward, .turnLeft, .turnRight, .stopOrDetonate, .turn]

/-! ### The disassembler -/

/-- The decimal digit of a number below 10. -/
def digitChar (n : Nat) : Char := Char.ofNat (48 + n)

/-- An argument in decimal. -/
def argText (a : Arg) : Text :=
  if a.toNat < 10 then [digitChar a.toNat] else [digitChar (a.toNat / 10), digitChar (a.toNat % 10)]

/-- The form `(arg=a)`. -/
def operandText (a : Arg) : Text := ['(', 'a', 'r', 'g', '='] ++ argText a ++ [')']

/-- The canonical text of an instruction: `STOP` and `TURN_LEFT` without an argument. -/
def instrText : Instr → Text
  | .stop => asmText .stop
  | .detonate a => asmText .detonate ++ operandText a
  | .forward a => asmText .forward ++ operandText a
  | .backward a => asmText .backward ++ operandText a
  | .turnLeft => asmText .turnLeft
  | .turnRight a => asmText .turnRight ++ operandText a

/-- The disassembler: a byte with b[7] = 1 prints as the same instruction. -/
def disassemble (b : Byte) : Text := instrText (classify b)

/-- Items separated by a comma and a space. -/
def joinItems : List Text → Text
  | [] => []
  | [t] => t
  | t :: u :: ts => t ++ [',', ' '] ++ joinItems (u :: ts)

/-- The text of a batch: a bracketed, comma-separated list. -/
def batchText (is : List Instr) : Text := ['['] ++ joinItems (is.map instrText) ++ [']']

/-! ### The assembler -/

/-- The value of a decimal digit. -/
def digitValue (c : Char) : Option Nat :=
  if 48 ≤ c.toNat ∧ c.toNat ≤ 57 then some (c.toNat - 48) else none

/-- The value of a digit string after the digits that make `n` (log 11). -/
def decimalFrom (n : Nat) : Text → Option Nat
  | [] => some n
  | c :: cs =>
    match digitValue c with
    | some d => decimalFrom (10 * n + d) cs
    | none => none

/-- The value of a non-empty digit string. -/
def decimal : Text → Option Nat
  | [] => none
  | c :: cs => decimalFrom 0 (c :: cs)

/-- The operand after a name: none, or `(arg=a)`; an outer `none` is a syntax error. -/
def operand : Text → Option (Option Nat)
  | [] => some none
  | '(' :: 'a' :: 'r' :: 'g' :: '=' :: rest =>
    match rest.reverse with
    | ')' :: ds =>
      match decimal ds.reverse with
      | some n => some (some n)
      | none => none
    | _ => none
  | _ => none

/-- A name with its operand, by the table of rule R83: `DETONATE(arg=0)`, `TURN_RIGHT(arg=0)` and an argument above 31 are
refused. -/
def assembleOp (n : AsmName) (a : Option Nat) : Except CallRefusal Instr :=
  match n, a with
  | .stop, none => .ok .stop
  | .stop, some v => if v = 0 then .ok .stop else .error .assemblerSyntax
  | .detonate, some v => if 1 ≤ v ∧ v ≤ 31 then .ok (.detonate (BitVec.ofNat 5 v)) else .error .assemblerSyntax
  | .forward, some v => if v ≤ 31 then .ok (.forward (BitVec.ofNat 5 v)) else .error .assemblerSyntax
  | .backward, some v => if v ≤ 31 then .ok (.backward (BitVec.ofNat 5 v)) else .error .assemblerSyntax
  | .turnLeft, none => .ok .turnLeft
  | .turnLeft, some v => if v = 0 then .ok .turnLeft else .error .assemblerSyntax
  | .turnRight, some v => if 1 ≤ v ∧ v ≤ 31 then .ok (.turnRight (BitVec.ofNat 5 v)) else .error .assemblerSyntax
  | .stopOrDetonate, some v =>
    if v ≤ 31 then .ok (OpClass.stopOrDetonate.instr (BitVec.ofNat 5 v)) else .error .assemblerSyntax
  | .turn, some v => if v ≤ 31 then .ok (OpClass.turn.instr (BitVec.ofNat 5 v)) else .error .assemblerSyntax
  | .detonate, none => .error .assemblerSyntax
  | .forward, none => .error .assemblerSyntax
  | .backward, none => .error .assemblerSyntax
  | .turnRight, none => .error .assemblerSyntax
  | .stopOrDetonate, none => .error .assemblerSyntax
  | .turn, none => .error .assemblerSyntax

/-- One instruction, as written in an assembler text. -/
def parseInstr (t : Text) : Except CallRefusal Instr :=
  match asmNames.find? (fun n => asmText n == t.takeWhile (fun c => c != '(')) with
  | none => .error .assemblerSyntax
  | some n =>
    match operand (t.dropWhile (fun c => c != '(')) with
    | none => .error .assemblerSyntax
    | some a => assembleOp n a

/-- The byte of one instruction, b[7] written 0. -/
def assemble (t : Text) : Except CallRefusal Byte :=
  match parseInstr t with
  | .ok i => .ok (encodeByte i)
  | .error r => .error r

/-- A text without the spaces around it (log 11). -/
def trimSpaces (t : Text) : Text :=
  ((t.dropWhile (fun c => c == ' ')).reverse.dropWhile (fun c => c == ' ')).reverse

/-- The pieces of a text between its commas. -/
def splitCommas : Text → List Text
  | [] => [[]]
  | c :: cs =>
    match splitCommas cs with
    | [] => [[c]]
    | w :: ws => if c = ',' then [] :: w :: ws else (c :: w) :: ws

/-- The bytes of the items of a batch. -/
def assembleItems : List Text → Except CallRefusal (List Byte)
  | [] => .ok []
  | t :: ts =>
    match assemble (trimSpaces t), assembleItems ts with
    | .ok b, .ok bs => .ok (b :: bs)
    | .error r, _ => .error r
    | .ok _, .error r => .error r

/-- A batch: `[]`, or a bracketed, comma-separated list of instructions. DESIGN CHOICE (log 17): a list of more than
MAX_BATCH instructions is assembled too, and `frameBatch` refuses its bytes. -/
def assembleBatch (t : Text) : Except CallRefusal (List Byte) :=
  match t with
  | '[' :: rest =>
    match rest.reverse with
    | ']' :: inner =>
      if trimSpaces inner.reverse = [] then .ok [] else assembleItems (splitCommas inner.reverse)
    | _ => .error .assemblerSyntax
  | _ => .error .assemblerSyntax

end Sys2Proof.Machine
end

