-- ==== Sys2Proof/Laws/PerInstr.lean ====
section
/-! SUPPORT. Statements made per instruction, one lemma per constructor of Instr. -/

/-- Decoding the word of a well-formed instruction, whatever follows it, gives it back and leaves what follows. -/
def Sys2Proof.Laws.RoundTrip.Statement (i : Sys2Proof.Instr) : Prop :=
  i.wellFormed = true → ∀ rest : List Sys2Proof.Byte, Sys2Proof.decode (Sys2Proof.encode i ++ rest) = .ok (i, rest)

/-- Assembling the canonical text of a well-formed instruction gives its byte. -/
def Sys2Proof.Laws.AsmRoundTrip.Statement (i : Sys2Proof.Instr) : Prop :=
  i.wellFormed = true → Sys2Proof.Machine.assemble (Sys2Proof.Machine.instrText i) = .ok (Sys2Proof.encodeByte i)

namespace Sys2Proof.Laws

/-- One byte decodes to its classification. -/
theorem decode_encode_of_classify (i : Instr) (h : classify (encodeByte i) = i) (rest : List Byte) :
    decode (encode i ++ rest) = .ok (i, rest) := by
  simp [encode, decode, h]

theorem classify_stop : classify (encodeByte .stop) = .stop := by decide
theorem classify_detonate : ∀ a : Arg, a ≠ 0#5 → classify (encodeByte (.detonate a)) = .detonate a := by decide
theorem classify_forward : ∀ a : Arg, classify (encodeByte (.forward a)) = .forward a := by decide
theorem classify_backward : ∀ a : Arg, classify (encodeByte (.backward a)) = .backward a := by decide
theorem classify_turnLeft : classify (encodeByte .turnLeft) = .turnLeft := by decide
theorem classify_turnRight : ∀ a : Arg, a ≠ 0#5 → classify (encodeByte (.turnRight a)) = .turnRight a := by decide

theorem RoundTrip.stop : RoundTrip.Statement .stop :=
  fun _ => decode_encode_of_classify _ classify_stop
theorem RoundTrip.detonate (arg : Arg) : RoundTrip.Statement (.detonate arg) :=
  fun h => decode_encode_of_classify _ (classify_detonate arg (by simpa [Instr.wellFormed] using h))
theorem RoundTrip.forward (arg : Arg) : RoundTrip.Statement (.forward arg) :=
  fun _ => decode_encode_of_classify _ (classify_forward arg)
theorem RoundTrip.backward (arg : Arg) : RoundTrip.Statement (.backward arg) :=
  fun _ => decode_encode_of_classify _ (classify_backward arg)
theorem RoundTrip.turnLeft : RoundTrip.Statement .turnLeft :=
  fun _ => decode_encode_of_classify _ classify_turnLeft
theorem RoundTrip.turnRight (arg : Arg) : RoundTrip.Statement (.turnRight arg) :=
  fun h => decode_encode_of_classify _ (classify_turnRight arg (by simpa [Instr.wellFormed] using h))

theorem AsmRoundTrip.stop : AsmRoundTrip.Statement .stop := by
  unfold AsmRoundTrip.Statement; decide
theorem AsmRoundTrip.detonate (arg : Arg) : AsmRoundTrip.Statement (.detonate arg) := by
  revert arg; unfold AsmRoundTrip.Statement; decide
theorem AsmRoundTrip.forward (arg : Arg) : AsmRoundTrip.Statement (.forward arg) := by
  revert arg; unfold AsmRoundTrip.Statement; decide
theorem AsmRoundTrip.backward (arg : Arg) : AsmRoundTrip.Statement (.backward arg) := by
  revert arg; unfold AsmRoundTrip.Statement; decide
theorem AsmRoundTrip.turnLeft : AsmRoundTrip.Statement .turnLeft := by
  unfold AsmRoundTrip.Statement; decide
theorem AsmRoundTrip.turnRight (arg : Arg) : AsmRoundTrip.Statement (.turnRight arg) := by
  revert arg; unfold AsmRoundTrip.Statement; decide

end Sys2Proof.Laws
end

