-- ==== Sys2Proof/Certificates/Slice0/Obligations.lean ====
section
/-! DEFINITION. The statements for the provers. Each docstring names the rules of spec/ it rests on. -/

open Sys2Proof Sys2Proof.Machine

/-! ### The codec and the opcode map -/

/-- 40_codec.md rule R105: decoding an encoded pair gives it back, in both forms of the codec. -/
def Obligations.OpcodeArgumentRoundTrip : Prop :=
  (∀ (op : BitVec 2) (arg : Arg), decodeInstr (encodeInstr op arg) = (op, arg)) ∧
  (∀ opv arg : Byte, opv ∈ [0x00#8, 0x20#8, 0x40#8, 0x60#8] → arg.toNat ≤ 31 →
    ∃ b, encodeInstrV opv arg = .ok b ∧ decodeInstrV b = (opv, arg))

/-- 40_codec.md rules R100 and R101: the value and the image of the encoder, and the domain of its wide form. -/
def Obligations.EncoderValueAndDomain : Prop :=
  (∀ (op : BitVec 2) (arg : Arg), (encodeInstr op arg).toNat = op.toNat * 32 + arg.toNat) ∧
  (∀ b : Byte, (∃ op arg, encodeInstr op arg = b) ↔ b.toNat < 128) ∧
  (∀ opv arg : Byte,
    (opv &&& 0x9F#8 ≠ 0#8 ∨ arg.toNat > 31 → encodeInstrV opv arg = .error .encoderDomain) ∧
    (opv &&& 0x9F#8 = 0#8 → arg.toNat ≤ 31 → encodeInstrV opv arg = .ok (opv ||| arg) ∧
      opv ||| arg = encodeInstr ((opv >>> 5).setWidth 2) (arg.setWidth 5)))

/-- 40_codec.md rule R102: the fields the decoder reads, and that bit 7 is read by nothing. -/
def Obligations.DecoderReadsItsFields : Prop :=
  ∀ b : Byte,
    (decodeInstr b).1.toNat = b.toNat / 32 % 4 ∧ (decodeInstr b).2.toNat = b.toNat % 32 ∧
    decodeInstr (b ^^^ 0x80#8) = decodeInstr b

/-- 40_codec.md rules R103 and R106: encode after decode clears bit 7, so it is the identity exactly on bytes without it;
and the decoder in the source's terms reads the same fields. -/
def Obligations.EncodeAfterDecodeClearsBitSeven : Prop :=
  (∀ b : Byte, encodeInstr (decodeInstr b).1 (decodeInstr b).2 = b &&& 0x7F#8) ∧
  (∀ b : Byte, encodeInstr (decodeInstr b).1 (decodeInstr b).2 = b ↔ b.toNat < 128) ∧
  (∀ b : Byte, decodeInstr (b ^^^ 0x80#8) = decodeInstr b) ∧
  (∀ b : Byte, decodeInstrV b = (b &&& 0x60#8, b &&& 0x1F#8) ∧
    decodeInstrV b = ((decodeInstr b).1.setWidth 8 <<< 5, (decodeInstr b).2.setWidth 8))

/-- 30_encoding.md rule R74: exactly one row of the opcode map matches each byte, it is the row of the instruction the
byte decodes to, and the rows select the bytes the rule lists. -/
def Obligations.OneOpcodeRowPerByte : Prop :=
  (∀ b : Byte, (opcodeTable.filter fun r => r.selects b).map OpcodeRow.mnemonic = [(classify b).mnemonic]) ∧
  (∀ r ∈ opcodeTable, ∀ b : Byte, r.selects b = true ↔
    match r.mnemonic with
    | .STOP => b.toNat % 128 = 0
    | .DETONATE => 1 ≤ b.toNat % 128 ∧ b.toNat % 128 ≤ 31
    | .FORWARD => 32 ≤ b.toNat % 128 ∧ b.toNat % 128 ≤ 63
    | .BACKWARD => 64 ≤ b.toNat % 128 ∧ b.toNat % 128 ≤ 95
    | .TURN_LEFT => b.toNat % 128 = 96
    | .TURN_RIGHT => 97 ≤ b.toNat % 128) ∧
  (opcodeTable.map fun r => ((List.range 256).filter fun v => r.selects (BitVec.ofNat 8 v)).length) =
    [2, 62, 64, 64, 2, 62]

/-- 95_test_vectors.md V1 to V20: words written out from the encoding decode to the instructions they stand for. -/
def Obligations.WrittenOutWordsDecode : Prop :=
  [0b0_00_00000, 0b1_00_00000, 0b0_00_00101, 0b1_00_00001, 0b0_01_00010, 0b1_01_00000, 0b0_10_11111, 0b1_10_11111,
      0b0_11_00000, 0b1_11_00000, 0b0_11_00001, 0b1_11_11111].map (decodeTableWord 8) =
    [some .stop, some .stop, some (.detonate 5#5), some (.detonate 1#5), some (.forward 2#5), some (.forward 0#5),
      some (.backward 31#5), some (.backward 31#5), some .turnLeft, some .turnLeft, some (.turnRight 1#5),
      some (.turnRight 31#5)]

/-- Every well-formed instruction decodes from its word, at every value of its argument. -/
def Obligations.EveryInstructionRoundTrips : Prop :=
  ∀ i : Instr, Laws.RoundTrip.Statement i

/-- 30_encoding.md rule R83: assembling the canonical text of a batch gives the bytes of the batch; that a list of more than
MAX_BATCH instructions is assembled too is the model's choice (log 17). -/
def Obligations.BatchTextAssembles : Prop :=
  (∀ i : Instr, Laws.AsmRoundTrip.Statement i) ∧
  (∀ is : List Instr, is.all Instr.wellFormed = true → assembleBatch (batchText is) = .ok (encodeBatch is))

/-- 30_encoding.md rule R83: every name, canonical or alias, with every argument, assembles to its byte or is refused; without
an argument only `STOP` and `TURN_LEFT` assemble; a byte prints as the same instruction whatever its bit 7, and what it prints
assembles to the byte with bit 7 clear. That any digit string is an argument is the model's choice (log 11). -/
def Obligations.AssemblerAliasesAndRefusals : Prop :=
  (∀ row ∈ [(AsmName.stop, 0, 0, 0x00#8), (.detonate, 1, 31, 0x00#8), (.forward, 0, 31, 0x20#8),
      (.backward, 0, 31, 0x40#8), (.turnLeft, 0, 0, 0x60#8), (.turnRight, 1, 31, 0x60#8),
      (.stopOrDetonate, 0, 31, 0x00#8), (.turn, 0, 31, 0x60#8)],
    ∀ (digits : Text) (v : Nat), decimal digits = some v →
      assemble (asmText row.1 ++ ['(', 'a', 'r', 'g', '='] ++ digits ++ [')']) =
        if row.2.1 ≤ v ∧ v ≤ row.2.2.1 then .ok (row.2.2.2 ||| BitVec.ofNat 8 v) else .error .assemblerSyntax) ∧
  (∀ n : AsmName, assemble (asmText n) =
    if n = .stop then .ok 0x00#8 else if n = .turnLeft then .ok 0x60#8 else .error .assemblerSyntax) ∧
  (∀ b : Byte, disassemble (b ^^^ 0x80#8) = disassemble b ∧ assemble (disassemble b) = .ok (b &&& 0x7F#8))

/-! ### The framer -/

/-- 41_framer.md rule R121 and 10_state.md rule R34: what `FrameBatch` refuses and the frame it builds, on lists and on the
ports `fb_cnt`, `fb_instr`, `fb_frame` and `fb_len`. -/
def Obligations.BatchFrameBytes : Prop :=
  (∀ (n : Nat) (is : List Byte),
    (50 < n ∨ is.length ≠ n → frameBatch n is = .error .batchTooLong) ∧
    (n ≤ 50 → is.length = n →
      frameBatch n is = .ok ([BitVec.ofNat 8 n + 2#8, 0x01#8, BitVec.ofNat 8 n] ++ is))) ∧
  (∀ (n : Index) (instr : InstrBuf),
    (50 < n.toNat → frameBatchPort n instr = .error .batchTooLong) ∧
    (n.toNat ≤ 50 → ∃ buf len, frameBatchPort n instr = .ok (buf, len) ∧ len.toNat = n.toNat + 3 ∧
      buf.toList = [n.setWidth 8 + 2#8, 0x01#8, n.setWidth 8] ++ instr.toList.take n.toNat ++
        List.replicate (50 - n.toNat) 0x00#8))

/-- 41_framer.md rules R124 and R129: the verdict is that of the first failing check in the order receipt, address,
count. -/
def Obligations.BatchVerdictInOrder : Prop :=
  ∀ (ok : Bool) (buf : FrameBuf),
    (ok = false → parseBatch ok buf = .drop .malformed) ∧
    (ok = true → buf[1] ≠ 0x01#8 → parseBatch ok buf = .drop .address) ∧
    (ok = true → buf[1] = 0x01#8 → 50 < buf[2].toNat → parseBatch ok buf = .bounds buf[2]) ∧
    (ok = true → buf[1] = 0x01#8 → buf[2].toNat ≤ 50 →
      ∃ is, parseBatch ok buf = .accept buf[2] is ∧ is.length = buf[2].toNat ∧
        ∀ j, j < buf[2].toNat → is[j]? = buf.toList[3 + j]?)

/-- 41_framer.md rule R128: the length byte and the bytes after the instructions are not read. -/
def Obligations.BatchParserIgnoresLengthAndTail : Prop :=
  ∀ (ok : Bool) (buf buf' : FrameBuf), buf[1] = buf'[1] → buf[2] = buf'[2] →
    (∀ j, j < buf[2].toNat → buf.toList[3 + j]? = buf'.toList[3 + j]?) → parseBatch ok buf = parseBatch ok buf'

/-- 41_framer.md rule R130: parsing a frame padded by any bytes gives its batch back, for a count of 0 too. -/
def Obligations.FramingRoundTrip : Prop :=
  ∀ (n : Nat) (is f : List Byte) (buf : FrameBuf), n ≤ 50 → is.length = n → frameBatch n is = .ok f →
    f <+: buf.toList → parseBatch true buf = .accept (BitVec.ofNat 8 n) is

/-- 41_framer.md rules R131, R133 and R134: the ack frame, the ack parser, and that neither node tells the frames
apart. -/
def Obligations.AckFrames : Prop :=
  frameAck = [0x02#8, 0x01#8, 0x11#8] ∧
  (∀ (ok : Bool) (buf : FrameBuf),
    (ok = false → parseAck ok buf = .drop .malformed) ∧
    (ok = true → buf[1] ≠ 0x01#8 → parseAck ok buf = .drop .address) ∧
    (ok = true → buf[1] = 0x01#8 → parseAck ok buf = .ack buf[2])) ∧
  (∀ buf : FrameBuf, frameAck <+: buf.toList →
    parseBatch true buf = .accept 17#8 ((buf.toList.drop 3).take 17)) ∧
  (∀ (n : Nat) (is f : List Byte) (buf : FrameBuf), frameBatch n is = .ok f → f <+: buf.toList →
    parseAck true buf = .ack (BitVec.ofNat 8 n))

/-- A well-formed batch survives the whole way: encoded, framed, padded by any bytes, parsed and decoded. -/
def Obligations.FramedBatchDecodesToItself : Prop :=
  ∀ (is : List Instr) (tail : List Byte), batchWellFormed is = true →
    ∃ f bs, frameBatch is.length (encodeBatch is) = .ok f ∧ f.length = is.length + 3 ∧
      (∀ b ∈ f.drop 3, b.toNat < 128) ∧
      parseBatch true (padFrame f tail) = .accept (BitVec.ofNat 8 is.length) bs ∧ decodeBatch bs = is

/-! ### The instructions: their encoding, their Setup in ISSUE and their Finish in WAIT -/

/-- 43_motion.md rule R182, STOP. -/
def Obligations.StopClearsEveryLine : Prop :=
  (∀ b : Byte, classify b = .stop ↔ b &&& 0x7F#8 = 0x00#8) ∧
  (∀ s : State, s.st = .issue → exec .stop s = .next { s with lines := 0b00000#5, ticks := 0#16, st := .wait }) ∧
  (∀ s : State, s.st = .wait → s.ticks = 0#16 →
    exec .stop s = .next { s with hb := !s.hb, ticks := 0#16, k := s.k + 1#6, st := .issue }) ∧
  (∀ (i : Instr) (s t : State), s.st = .issue → s.lines = 0b10000#5 → exec i s = .next t → t.lines = 0b00000#5 →
    i = .stop)

/-- 43_motion.md rule R183, DETONATE: the argument's magnitude has no effect, and of the instructions only STOP, FORWARD
and BACKWARD clear D. -/
def Obligations.DetonateAssertsOnlyDetonate : Prop :=
  (∀ (b : Byte) (a : Arg), classify b = .detonate a ↔
    b &&& 0x60#8 = 0x00#8 ∧ b.extractLsb' 0 5 ≠ 0#5 ∧ a = b.extractLsb' 0 5) ∧
  (∀ (a : Arg) (s : State), s.st = .issue →
    exec (.detonate a) s = .next { s with lines := 0b10000#5, ticks := 0#16, st := .wait }) ∧
  (∀ (a : Arg) (s : State), s.st = .wait → s.ticks = 0#16 →
    exec (.detonate a) s = .next { s with hb := !s.hb, ticks := 0#16, k := s.k + 1#6, st := .issue }) ∧
  (∀ (i : Instr) (s t : State), s.lines.getLsbD 4 = true → exec i s = .next t → t.lines.getLsbD 4 = false →
    s.st = .issue ∧ (i = .stop ∨ (∃ a, i = .forward a) ∨ (∃ a, i = .backward a)))

/-- 43_motion.md rule R184, FORWARD: the hold is exactly 500 × a. -/
def Obligations.ForwardHoldsForward : Prop :=
  (∀ (b : Byte) (a : Arg), classify b = .forward a ↔ b &&& 0x60#8 = 0x20#8 ∧ a = b.extractLsb' 0 5) ∧
  (∀ (a : Arg) (s : State), s.st = .issue →
    exec (.forward a) s = .next { s with lines := 0b00001#5, ticks := 0#16, st := .wait }) ∧
  (∀ (a : Arg) (s : State), s.st = .wait → s.ticks.toNat = 500 * a.toNat →
    exec (.forward a) s = .next
      { s with lines := s.lines &&& 0b11110#5, hb := !s.hb, ticks := 0#16, k := s.k + 1#6, st := .issue }) ∧
  (∀ (a : Arg) (s : State), s.st = .wait → s.ticks.toNat ≠ 500 * a.toNat →
    exec (.forward a) s = .next (if s.input.tickEn then { s with ticks := s.ticks + 1#16 } else s))

/-- 43_motion.md rule R185, BACKWARD: the hold is exactly 500 × a. -/
def Obligations.BackwardHoldsBackward : Prop :=
  (∀ (b : Byte) (a : Arg), classify b = .backward a ↔ b &&& 0x60#8 = 0x40#8 ∧ a = b.extractLsb' 0 5) ∧
  (∀ (a : Arg) (s : State), s.st = .issue →
    exec (.backward a) s = .next { s with lines := 0b00100#5, ticks := 0#16, st := .wait }) ∧
  (∀ (a : Arg) (s : State), s.st = .wait → s.ticks.toNat = 500 * a.toNat →
    exec (.backward a) s = .next
      { s with lines := s.lines &&& 0b11011#5, hb := !s.hb, ticks := 0#16, k := s.k + 1#6, st := .issue }) ∧
  (∀ (a : Arg) (s : State), s.st = .wait → s.ticks.toNat ≠ 500 * a.toNat →
    exec (.backward a) s = .next (if s.input.tickEn then { s with ticks := s.ticks + 1#16 } else s))

/-- 43_motion.md rule R186, TURN_LEFT: F, B and D and the heartbeat are unchanged, and the hold is 15500. -/
def Obligations.TurnLeftHoldsLeft : Prop :=
  (∀ b : Byte, classify b = .turnLeft ↔ b &&& 0x7F#8 = 0x60#8) ∧
  (∀ s : State, s.st = .issue →
    exec .turnLeft s = .next { s with lines := (s.lines &&& 0b10101#5) ||| 0b00010#5, ticks := 0#16, st := .wait }) ∧
  (∀ s : State, s.st = .wait → s.ticks.toNat = 15500 →
    exec .turnLeft s = .next
      { s with lines := s.lines &&& 0b10101#5, ticks := 0#16, k := s.k + 1#6, st := .issue }) ∧
  (∀ s : State, s.st = .wait → s.ticks.toNat ≠ 15500 →
    exec .turnLeft s = .next (if s.input.tickEn then { s with ticks := s.ticks + 1#16 } else s))

/-- 43_motion.md rule R187, TURN_RIGHT: the hold is 15500 whatever the argument, and a Detonate stays asserted. -/
def Obligations.TurnRightHoldsRight : Prop :=
  (∀ (b : Byte) (a : Arg), classify b = .turnRight a ↔
    b &&& 0x60#8 = 0x60#8 ∧ b.extractLsb' 0 5 ≠ 0#5 ∧ a = b.extractLsb' 0 5) ∧
  (∀ (a : Arg) (s : State), s.st = .issue → exec (.turnRight a) s = .next
    { s with lines := (s.lines &&& 0b10101#5) ||| 0b01000#5, ticks := 0#16, st := .wait }) ∧
  (∀ (a : Arg) (s : State), s.st = .wait → s.ticks.toNat = 15500 → exec (.turnRight a) s = .next
    { s with lines := s.lines &&& 0b10101#5, ticks := 0#16, k := s.k + 1#6, st := .issue }) ∧
  (∀ (a : Arg) (s : State), s.st = .wait → s.ticks.toNat ≠ 15500 →
    exec (.turnRight a) s = .next (if s.input.tickEn then { s with ticks := s.ticks + 1#16 } else s))

/-- The frame of every instruction (43_motion.md rule R193, 10_state.md rule R36): when exec answers a next state, the
registers an instruction does not write are unchanged, every entry of the batch store reads as before, the cursor moves
only at the Finish, the heartbeat changes only at a Finish of STOP, DETONATE, FORWARD or BACKWARD, and the lines do not
change during the hold. -/
def Obligations.InstructionFrame : Prop :=
  ∀ (i : Instr) (s t : State), exec i s = .next t →
    t.cnt = s.cnt ∧ t.cur = s.cur ∧ t.fault = s.fault ∧ t.faultCnt = s.faultCnt ∧ t.inputs = s.inputs ∧
    t.cycle = s.cycle ∧ t.epoch = s.epoch ∧
    (∀ a, t.readEntry a = s.readEntry a) ∧ (∀ a, t.mem.entry a = s.mem.entry a) ∧
    (t.k = if s.st = .wait ∧ t.st = .issue then s.k + 1#6 else s.k) ∧
    (t.hb ≠ s.hb → s.st = .wait ∧ t.st = .issue ∧ i ≠ .turnLeft ∧ ∀ a, i ≠ .turnRight a) ∧
    (t.lines ≠ s.lines → t.st ≠ s.st)

/-- 43_motion.md rule R188, over the byte-wide opcode of log 13: no byte reaches the default arm, which is a safety stop. -/
def Obligations.DefaultArmIsUnreachedSafetyStop : Prop :=
  (∀ (b : Byte) (s : State), execV (decodeInstrV b).1 (decodeInstr b).2 s = exec (classify b) s) ∧
  (∀ (opv : Byte) (arg : Arg) (s : State), opv ∉ [0x00#8, 0x20#8, 0x40#8, 0x60#8] →
    (s.st = .issue → execV opv arg s = .next { s with lines := 0b00000#5, ticks := 0#16, st := .wait }) ∧
    (s.st = .wait → s.ticks = 0#16 →
      execV opv arg s = .next { s with ticks := 0#16, k := s.k + 1#6, st := .issue }))

/-- No instruction executes in IDLE, ACK or FAULT: a meaning applied there refuses by name, and the step applies none
(the model's choice, log 5). -/
def Obligations.NothingExecutesOutsideIssueAndWait : Prop :=
  ∀ (i : Instr) (s : State), s.st = .idle ∨ s.st = .ack ∨ s.st = .fault → exec i s = .refused .notExecuting

/-- 43_motion.md rule R192: the hold grows by 500 with the argument of FORWARD and BACKWARD, is constant for a TURN and 0
for STOP and DETONATE. -/
def Obligations.HoldMonotonicity : Prop :=
  (∀ a : Arg, a.toNat < 31 →
    holdLength (.forward (a + 1#5)) - holdLength (.forward a) = 500 ∧
    holdLength (.forward a) < holdLength (.forward (a + 1#5)) ∧
    holdLength (.backward (a + 1#5)) - holdLength (.backward a) = 500 ∧
    holdLength (.backward a) < holdLength (.backward (a + 1#5))) ∧
  (∀ a a' : Arg, holdLength (.turnRight a) = holdLength (.turnRight a') ∧
    holdLength (.turnRight a) = holdLength .turnLeft) ∧
  holdLength .stop = 0 ∧ (∀ a : Arg, holdLength (.detonate a) = 0)

/-! ### One clock cycle -/

/-- In ISSUE and WAIT a step without reset runs the decoded instruction: ISSUE first latches the byte at the cursor, WAIT
decodes `cur`, and the clock edge follows. -/
def Obligations.StepRunsTheDecodedInstruction : Prop :=
  ∀ (s : State) (i : Instr), s.input.rst = false →
    (s.st = .issue → s.k ≠ s.cnt → s.k.toNat < 50 → decode [s.readEntry s.k.toNat] = .ok (i, []) →
      step s = mapNext State.edge (exec i { s with cur := s.readEntry s.k.toNat })) ∧
    (s.st = .wait → decode [s.cur] = .ok (i, []) → step s = mapNext State.edge (exec i s))

/-- A word placed by withFetchWord is what the next step starts (the model's choice, log 8). -/
def Obligations.StepStartsThePlacedWord : Prop :=
  ∀ (s : State) (b : Byte), ∃ t, step (s.withFetchWord 8 b.toNat) = .next t ∧ t.st = .wait ∧ t.cur = b ∧
    t.lines = setupLines (classify b) s.lines ∧ t.ticks = 0#16 ∧ t.k = 0#6 ∧ t.cnt = 1#6 ∧ t.hb = s.hb ∧
    t.inputs = s.inputs

/-- 42_sequencer.md rule R154, the ISSUE cycle. -/
def Obligations.IssueCycle : Prop :=
  ∀ s : State, s.input.rst = false → s.st = .issue →
    (s.k = s.cnt → step s = .next (State.edge { s with st := .ack })) ∧
    (∀ b : Byte, s.k ≠ s.cnt → s.k.toNat < 50 → s.mem.entry s.k.toNat = some b →
      step s = .next (State.edge
        { s with cur := b, lines := setupLines (classify b) s.lines, ticks := 0#16, st := .wait }))

/-- 42_sequencer.md rule R155, the WAIT cycle. -/
def Obligations.WaitCycle : Prop :=
  ∀ s : State, s.input.rst = false → s.st = .wait →
    (s.ticks.toNat = holdLength (classify s.cur) →
      step s = .next (State.edge
        { s with lines := finishLines (classify s.cur) s.lines, hb := finishHb (classify s.cur) s.hb,
                 ticks := 0#16, k := s.k + 1#6, st := .issue })) ∧
    (s.ticks.toNat ≠ holdLength (classify s.cur) → s.input.tickEn = true →
      step s = .next (State.edge { s with ticks := s.ticks + 1#16 })) ∧
    (s.ticks.toNat ≠ holdLength (classify s.cur) → s.input.tickEn = false → step s = .next (State.edge s))

/-- 42_sequencer.md rule R152, acceptance: the batch is stored whole, the entries after it keep their contents, and the
other registers are unchanged. -/
def Obligations.AcceptanceStoresTheBatch : Prop :=
  ∀ (s : State) (n : Byte) (is : List Byte), s.input.rst = false → s.st = .idle → s.input.rxValid = true →
    parseBatch s.input.rxOk s.input.rxBuf = .accept n is →
    ∃ t, step s = .next t ∧ t.st = .issue ∧ t.k = 0#6 ∧ t.cnt.toNat = n.toNat ∧ is.length = n.toNat ∧
      (∀ j, j < n.toNat → t.mem.entry j = is[j]?) ∧
      (∀ j, n.toNat ≤ j → t.mem.entry j = s.mem.entry j ∧ t.readEntry j = s.readEntry j) ∧
      t.lines = s.lines ∧ t.hb = s.hb ∧ t.ticks = s.ticks ∧ t.cur = s.cur ∧ t.fault = s.fault ∧
      t.faultCnt = s.faultCnt

/-- 60_exceptions.md rule R211: a malformed packet changes no register and sends no ack; nor does IDLE without a packet
(42_sequencer.md rule R153). -/
def Obligations.MalformedPacketChangesNothing : Prop :=
  ∀ s : State, s.input.rst = false → s.st = .idle →
    (s.input.rxValid = false ∨ (s.input.rxValid = true ∧ s.input.rxOk = false)) →
    step s = .next (State.edge s) ∧ sameRegisters s (State.edge s) ∧ s.transmission = none

/-- 60_exceptions.md rule R212, by the spec's own decision D10: a packet for another address changes no register and sends
no ack. -/
def Obligations.MisaddressedPacketChangesNothing : Prop :=
  ∀ s : State, s.input.rst = false → s.st = .idle → s.input.rxValid = true → s.input.rxBuf[1] ≠ 0x01#8 →
    step s = .next (State.edge s) ∧ sameRegisters s (State.edge s) ∧ s.transmission = none

/-- 60_exceptions.md rule R213: a count above MAX_BATCH enters FAULT, clears the lines, and changes nothing else. -/
def Obligations.BoundsFaultEntry : Prop :=
  ∀ s : State, s.input.rst = false → s.st = .idle → s.input.rxValid = true → s.input.rxOk = true →
    s.input.rxBuf[1] = 0x01#8 → 50 < s.input.rxBuf[2].toNat →
    step s = .next (State.edge
      { s with fault := true, faultCnt := s.input.rxBuf[2], lines := 0b00000#5, st := .fault })

/-- 42_sequencer.md rule R157: ACK presents the ack frame, ends with `tx_done`, changes nothing else, and is entered only
from ISSUE with k = cnt. -/
def Obligations.AckEndsWithTxDone : Prop :=
  (∀ s : State, s.input.rst = false → s.st = .ack →
    s.outputs.txReq = true ∧ s.outputs.txFrame = [0x02#8, 0x01#8, 0x11#8] ∧ s.outputs.txLen = 3#8 ∧
    (s.input.txDone = true → step s = .next (State.edge { s with st := .idle })) ∧
    (s.input.txDone = false → step s = .next (State.edge s))) ∧
  (∀ s t : State, step s = .next t → t.st = .ack → s.st ≠ .ack → s.st = .issue ∧ s.k = s.cnt)

/-- 42_sequencer.md rule R158: a transmit ends exactly in a cycle of ACK with `tx_done` (and without reset, log 12), and its
`tx_ok` changes nothing. -/
def Obligations.TransmissionEndsInAck : Prop :=
  (∀ s : State, s.input.rst = false → s.st = .ack → s.input.txDone = true →
    s.transmission = some ⟨[0x02#8, 0x01#8, 0x11#8], s.input.txOk⟩ ∧ ∃ t, step s = .next t ∧ t.st = .idle) ∧
  (∀ s : State, s.transmission ≠ none → s.input.rst = false ∧ s.st = .ack ∧ s.input.txDone = true) ∧
  (∀ (s : State) (x : Input) (rest : List Input) (ok : Bool), s.inputs = x :: rest →
    step { s with inputs := { x with txOk := ok } :: rest } = step s)

/-- 70_reset_and_hazards.md rule R240: reset wins in every state, whatever the other inputs; the batch store is
unspecified after it. -/
def Obligations.ResetWinsInEveryState : Prop :=
  ∀ s : State, s.input.rst = true →
    ∃ t, step s = .next t ∧ t.st = .idle ∧ t.cnt = 0#6 ∧ t.k = 0#6 ∧ t.cur = 0x00#8 ∧ t.ticks = 0#16 ∧
      t.lines = 0b00000#5 ∧ t.hb = false ∧ t.fault = false ∧ t.faultCnt = 0x00#8 ∧ (∀ j, t.mem.entry j = none)

/-- 70_reset_and_hazards.md rules R241 and R242: the outputs after reset. -/
def Obligations.OutputsAfterReset : Prop :=
  State.reset.st = .idle ∧ State.reset.outputs.rxReady = true ∧ State.reset.outputs.act = 0b00000#5 ∧
    State.reset.outputs.hbOut = false ∧ State.reset.outputs.faultOut = false ∧ State.reset.outputs.txReq = false

/-- 10_state.md rule R33: each output is the function of the registers the rule gives. -/
def Obligations.OutputsOfTheRegisters : Prop :=
  ∀ s : State, s.outputs.act = s.lines ∧ s.outputs.hbOut = s.hb ∧ s.outputs.faultOut = s.fault ∧
    (s.outputs.rxReady = true ↔ s.st = .idle) ∧ (s.outputs.txReq = true ↔ s.st = .ack) ∧ s.outputs.txLen = 3#8 ∧
    s.outputs.txFrame = [0x02#8, 0x01#8, 0x11#8]

/-! ### Which inputs matter where -/

/-- 42_sequencer.md rule R151: outside IDLE an offered packet is not taken: the step is the same whatever `rx_valid`,
`rx_ok` and `rx_buf` are. -/
def Obligations.PacketWhileBusyIsNotTaken : Prop :=
  ∀ (s : State) (x : Input) (rest : List Input) (valid ok : Bool) (buf : FrameBuf), s.inputs = x :: rest →
    s.st ≠ .idle →
    step { s with inputs := { x with rxValid := valid, rxOk := ok, rxBuf := buf } :: rest } = step s

/-- 42_sequencer.md rule R160: `tick_en` matters only in WAIT and only before the end of the hold. -/
def Obligations.TicksCountOnlyInAHold : Prop :=
  ∀ (s : State) (x : Input) (rest : List Input) (tick : Bool), s.inputs = x :: rest →
    (s.st ≠ .wait ∨ s.ticks.toNat = holdLength (classify s.cur)) →
    step { s with inputs := { x with tickEn := tick } :: rest } = step s

/-- 60_exceptions.md rules R218 and R219: `tx_done` matters only in ACK, and `tx_ok` nowhere. -/
def Obligations.TxDoneMattersOnlyInAck : Prop :=
  ∀ (s : State) (x : Input) (rest : List Input) (done ok : Bool), s.inputs = x :: rest →
    (s.st ≠ .ack ∨ done = x.txDone) →
    step { s with inputs := { x with txDone := done, txOk := ok } :: rest } = step s

/-! ### Rules of the whole machine -/

/-- 42_sequencer.md rule R150: the table of transitions. -/
def Obligations.TransitionTable : Prop :=
  ∀ s t : State, step s = .next t →
    (s.input.rst = true → sameRegisters State.reset t) ∧
    (s.input.rst = false →
      (s.st = .idle → t.st =
        if s.input.rxValid then
          match parseBatch s.input.rxOk s.input.rxBuf with
          | .accept _ _ => .issue
          | .bounds _ => .fault
          | .drop _ => .idle
        else .idle) ∧
      (s.st = .issue → t.st = if s.k = s.cnt then .ack else .wait) ∧
      (s.st = .wait → t.st = if s.ticks.toNat = holdLength (classify s.cur) then .issue else .wait) ∧
      (s.st = .ack → t.st = if s.input.txDone then .idle else .ack) ∧
      (s.st = .fault → t.st = .fault))

/-- 60_exceptions.md rule R210: exactly which cycles have each cause code, and the next state of each. -/
def Obligations.ErrorCausesAndEffects : Prop :=
  ∀ s : State,
    s.cause ≠ some .badOpcode ∧
    (s.cause = some .dropMalformed ↔
      s.input.rst = false ∧ s.st = .idle ∧ s.input.rxValid = true ∧ s.input.rxOk = false) ∧
    (s.cause = some .dropAddress ↔ s.input.rst = false ∧ s.st = .idle ∧ s.input.rxValid = true ∧
      s.input.rxOk = true ∧ s.input.rxBuf[1] ≠ 0x01#8) ∧
    (s.cause = some .faultBounds ↔ s.input.rst = false ∧ s.st = .idle ∧ s.input.rxValid = true ∧
      s.input.rxOk = true ∧ s.input.rxBuf[1] = 0x01#8 ∧ 50 < s.input.rxBuf[2].toNat) ∧
    (s.cause = some .ackLost ↔
      s.input.rst = false ∧ s.st = .ack ∧ s.input.txDone = true ∧ s.input.txOk = false) ∧
    (s.cause = some .dropMalformed ∨ s.cause = some .dropAddress →
      step s = .next (State.edge s) ∧ s.transmission = none) ∧
    (s.cause = some .faultBounds → s.transmission = none ∧ step s = .next (State.edge
      { s with fault := true, faultCnt := s.input.rxBuf[2], lines := 0b00000#5, st := .fault })) ∧
    (s.cause = some .ackLost → step s = .next (State.edge { s with st := .idle }))

/-- 10_state.md rules R30 and R31: only the bounds fault sets `fault`, recording the count byte, and only reset clears
it. -/
def Obligations.OnlyBoundsSetsAndResetClearsFault : Prop :=
  ∀ s t : State, step s = .next t → (t.fault ≠ s.fault ∨ t.faultCnt ≠ s.faultCnt) →
    (s.input.rst = true ∧ t.fault = false ∧ t.faultCnt = 0x00#8) ∨
    (s.input.rst = false ∧ s.st = .idle ∧ s.input.rxValid = true ∧ s.input.rxOk = true ∧
      s.input.rxBuf[1] = 0x01#8 ∧ 50 < s.input.rxBuf[2].toNat ∧ t.fault = true ∧ t.faultCnt = s.input.rxBuf[2])

/-- 10_state.md rule R29: apart from reset, only the Finish of STOP, DETONATE, FORWARD or BACKWARD changes `hb`, and it
toggles it. -/
def Obligations.OnlyFinishTogglesHeartbeat : Prop :=
  ∀ s t : State, step s = .next t → s.input.rst = false →
    (t.hb ≠ s.hb ↔ s.st = .wait ∧ s.ticks.toNat = holdLength (classify s.cur) ∧
      ((classify s.cur = .stop) ∨ (∃ a, classify s.cur = .detonate a) ∨ (∃ a, classify s.cur = .forward a) ∨
        (∃ a, classify s.cur = .backward a)))

/-- 70_reset_and_hazards.md rule R249: an asserted Detonate is cleared only by reset, by the bounds fault, or by the start
of a STOP, FORWARD or BACKWARD. -/
def Obligations.DetonatePersists : Prop :=
  ∀ s t : State, step s = .next t → s.lines.getLsbD 4 = true → t.lines.getLsbD 4 = false →
    s.input.rst = true ∨ (s.st = .idle ∧ t.st = .fault) ∨
    (s.st = .issue ∧ t.st = .wait ∧
      ((classify t.cur = .stop) ∨ (∃ a, classify t.cur = .forward a) ∨ (∃ a, classify t.cur = .backward a)))

/-- 20_memory.md rules R50 and R57: no cycle of ISSUE, WAIT, ACK or FAULT without reset changes the batch store or the
count, and in IDLE only an accepted frame does. -/
def Obligations.BatchStoreStableDuringBatch : Prop :=
  ∀ s t : State, step s = .next t → s.input.rst = false →
    (s.st ≠ .idle ∨ s.input.rxValid = false ∨ (∀ n is, parseBatch s.input.rxOk s.input.rxBuf ≠ .accept n is)) →
    t.cnt = s.cnt ∧ ∀ a, t.mem.entry a = s.mem.entry a ∧ t.readEntry a = s.readEntry a

/-- 10_state.md rule R22: during a batch the cursor stays or grows by exactly one, the latter exactly at a Finish, and
never passes the count. -/
def Obligations.CursorAdvancesByOne : Prop :=
  ∀ s t : State, Inv s → step s = .next t → s.input.rst = false → s.st ≠ .idle →
    t.k.toNat ≤ t.cnt.toNat ∧
    (if s.st = .wait ∧ s.ticks.toNat = holdLength (classify s.cur) then t.k.toNat = s.k.toNat + 1 ∧ t.st = .issue
      else t.k = s.k)

/-- 43_motion.md rule R191: the holds are exact and neither counter wraps. -/
def Obligations.CountersNeverWrap : Prop :=
  (∀ i : Instr, holdLength i ≤ 15500) ∧
  (∀ s : State, Inv s → s.st = .wait →
    (s.k + 1#6).toNat = s.k.toNat + 1 ∧ (s.k + 1#6).toNat ≤ 50 ∧
    (s.ticks.toNat ≠ holdLength (classify s.cur) →
      (s.ticks + 1#16).toNat = s.ticks.toNat + 1 ∧ (s.ticks + 1#16).toNat ≤ holdLength (classify s.cur)))

/-- The invariant holds at reset. -/
def Obligations.InvariantAtReset : Prop :=
  Inv State.reset

/-- From every state that meets the invariant the step answers a next state, which meets it again. -/
def Obligations.StepKeepsTheInvariant : Prop :=
  ∀ s : State, Inv s → ∃ t, step s = .next t ∧ Inv t

/-- 43_motion.md rule R190: in every state that meets the invariant at most one motion line is asserted and D never with
F or B; runs from reset assert D with L and D with R. -/
def Obligations.MotionLinesExclusive : Prop :=
  (∀ s : State, Inv s → exclusiveLines s.lines = true) ∧
  (∃ (env : List Input) (n : Nat) (t : State),
    run n { State.reset with inputs := env } = .next t ∧ t.lines = 0b10010#5) ∧
  (∃ (env : List Input) (n : Nat) (t : State),
    run n { State.reset with inputs := env } = .next t ∧ t.lines = 0b11000#5)

/-- From reset, under every environment, no run ever stops; the lines are exclusive in every state and {} or {D} at every
boundary (43_motion.md rules R189 and R190), and FAULT is exactly the state with the flag. -/
def Obligations.EveryRunFromResetIsSafe : Prop :=
  ∀ (env : List Input) (n : Nat), ∃ t, run n { State.reset with inputs := env } = .next t ∧
    exclusiveLines t.lines = true ∧ (t.st ≠ .wait → t.lines = 0b00000#5 ∨ t.lines = 0b10000#5) ∧
    (t.fault = true ↔ t.st = .fault) ∧ (t.st = .fault → t.lines = 0b00000#5)

/-! ### Runs -/

/-- 42_sequencer.md rule R165: in FAULT, without reset, nothing changes for ever and nothing is sent. -/
def Obligations.FaultLastsUntilReset : Prop :=
  ∀ (n : Nat) (s : State), s.st = .fault → noReset n s →
    ∃ t, run n s = .next t ∧ sameRegisters s t ∧ transmissions (trace n s) = [] ∧ s.outputs.rxReady = false ∧
      s.outputs.txReq = false

/-- 42_sequencer.md rule R166: a hold whose ticks stop stays in WAIT with its lines, and an ACK without `tx_done` stays in
ACK; neither ever times out. -/
def Obligations.StallsNeverTimeOut : Prop :=
  ∀ (n : Nat) (s : State), noReset n s →
    (s.st = .wait ∧ s.ticks.toNat ≠ holdLength (classify s.cur) ∧
        (∀ j, j < n → ∀ t, run j s = .next t → t.input.tickEn = false)) ∨
      (s.st = .ack ∧ ∀ j, j < n → ∀ t, run j s = .next t → t.input.txDone = false) →
    ∃ t, run n s = .next t ∧ sameRegisters s t ∧ t.cycle = s.cycle + n ∧ transmissions (trace n s) = []

/-- 42_sequencer.md rule R161: under every tick pattern an instruction's Setup lines hold through exactly W counted ticks,
and then the Finish writes what the table of 43_motion.md rule R180 says. `pre` holds the samples of the WAIT cycles up to
the last counted tick, `last` that of the exit cycle. The number of cycles, `pre.length + 2`, is that of the D18 rendering
(log 6). -/
def Obligations.WholeInstructionUnderAnyTicks : Prop :=
  ∀ (s : State) (b : Byte) (x last : Input) (pre rest : List Input),
    s.st = .issue → s.k ≠ s.cnt → s.k.toNat < 50 → s.mem.entry s.k.toNat = some b →
    s.inputs = x :: (pre ++ last :: rest) → x.rst = false → (∀ y ∈ pre, y.rst = false) → last.rst = false →
    tickCount pre = holdLength (classify b) → (pre = [] ∨ ∃ q z, pre = q ++ [z] ∧ z.tickEn = true) →
    run (pre.length + 2) s = .next
      { s with cur := b, lines := linesAfter (classify b) s.lines, hb := finishHb (classify b) s.hb, ticks := 0#16,
               k := s.k + 1#6, inputs := rest, cycle := s.cycle + (pre.length + 2) } ∧
    (∃ r rs, trace (pre.length + 2) s = r :: rs ∧ r.act = s.lines ∧
      ∀ q ∈ rs, q.act = setupLines (classify b) s.lines) ∧
    countedTicks (trace (pre.length + 2) s) = holdLength (classify b) ∧
    transmissions (trace (pre.length + 2) s) = []

/-- 42_sequencer.md rules R162 and R164: with a tick in every cycle, an accepted batch takes 1 + Σ (W + 2) + 1 + A cycles,
counts the ticks of its holds, leaves the lines and the heartbeat its instructions leave in order, and sends exactly one
ack, in its last cycle. The number of cycles is that of the D18 rendering (log 6), and the stamp of the transmit that of
log 15. -/
def Obligations.BatchRunsToOneAck : Prop :=
  ∀ (s : State) (n : Byte) (bs : List Byte) (x done : Input) (mid waits rest : List Input),
    s.st = .idle → x.rst = false → x.rxValid = true → parseBatch x.rxOk x.rxBuf = .accept n bs →
    s.inputs = x :: (mid ++ waits ++ done :: rest) →
    (∀ y ∈ mid, y.rst = false ∧ y.tickEn = true) → mid.length = executeCycles (decodeBatch bs) →
    (∀ y ∈ waits, y.rst = false ∧ y.txDone = false) → done.rst = false → done.txDone = true →
    ∃ t, run (1 + mid.length + waits.length + 1) s = .next t ∧ t.st = .idle ∧ t.cnt.toNat = n.toNat ∧
      t.k = t.cnt ∧ t.lines = batchLines (decodeBatch bs) s.lines ∧ t.hb = batchHb (decodeBatch bs) s.hb ∧
      t.fault = s.fault ∧ t.faultCnt = s.faultCnt ∧ t.inputs = rest ∧
      countedTicks (trace (1 + mid.length + waits.length + 1) s) = ((decodeBatch bs).map holdLength).sum ∧
      transmissions (trace (1 + mid.length + waits.length + 1) s) =
        [(s.cycle + 1 + mid.length + waits.length, ⟨[0x02#8, 0x01#8, 0x11#8], done.txOk⟩)]

/-- 42_sequencer.md rules R159 and R164: under every environment without reset, from a busy state until the first return
to IDLE nothing is sent before it and exactly one ack is sent by it; FAULT is not reached. -/
def Obligations.ExactlyOneAckPerBatch : Prop :=
  ∀ (n : Nat) (s t : State), s.busy = true → noReset n s → run n s = .next t →
    (∀ j, 0 < j → j < n → ∀ u, run j s = .next u → u.st ≠ .idle) →
    (t.busy = true ∧ transmissions (trace n s) = []) ∨
    (t.st = .idle ∧ (transmissions (trace n s)).map (fun p => p.2.frame) = [[0x02#8, 0x01#8, 0x11#8]])

/-- 20_memory.md rule R58: the unspecified contents of the batch store after reset never reach a register other than the
store, an output or the trace: two runs that differ only in them look the same. That `epoch` names those contents is the
model's choice (log 2). -/
def Obligations.UnwrittenStoreIsNeverSeen : Prop :=
  ∀ (n : Nat) (s : State) (e : Nat), Inv s →
    ∃ t u, run n s = .next t ∧ run n { s with epoch := e } = .next u ∧ sameRegisters t u ∧
      trace n { s with epoch := e } = trace n s

/-- The observation of 42_sequencer.md rule R167: the records of a run fall, in order, into non-empty groups, one for each
stretch; the outputs of a group's records are those of its stretch, the stretch starts at the cycle of the group's first
record and has the ticks the group counts, and neighbouring stretches differ in an output. So every change of an output opens
a stretch at its cycle (stamped as log 15 says), and nothing else does. -/
def Obligations.ObservationKeepsEveryTick : Prop :=
  ∀ l : List CycleRecord,
    (∃ groups : List (List CycleRecord), groups.flatten = l ∧
      List.Forall₂ (fun (g : List CycleRecord) (e : Segment) =>
        g.head?.map CycleRecord.cycle = some e.start ∧ countedTicks g = e.ticks ∧
        ∀ r ∈ g, r.act = e.act ∧ r.hbOut = e.hbOut ∧ r.faultOut = e.faultOut) groups (segments l)) ∧
    List.IsChain (fun e e' => (e.act, e.hbOut, e.faultOut) ≠ (e'.act, e'.hbOut, e'.faultOut)) (segments l)
end

