-- ==== Sys2Proof/Laws/Assembler.lean ====
section
/-! SUPPORT. The canonical texts of instructions, and the split of a text at its commas. -/
namespace Sys2Proof.Machine

/-- A text without a comma, without spaces around it even after one more space before it, and not empty. -/
def plainItem (t : Text) : Bool :=
  t.all (fun c => c != ',') && trimSpaces t == t && trimSpaces (' ' :: t) == t &&
    match t with
    | [] => false
    | c :: _ => c != ' '

theorem plainItem_detonate : ∀ a : Arg, plainItem (instrText (.detonate a)) = true := by decide
theorem plainItem_forward : ∀ a : Arg, plainItem (instrText (.forward a)) = true := by decide
theorem plainItem_backward : ∀ a : Arg, plainItem (instrText (.backward a)) = true := by decide
theorem plainItem_turnRight : ∀ a : Arg, plainItem (instrText (.turnRight a)) = true := by decide

/-- Every canonical text is a plain item. -/
theorem plainItem_instrText (i : Instr) : plainItem (instrText i) = true := by
  cases i with
  | stop => decide
  | detonate a => exact plainItem_detonate a
  | forward a => exact plainItem_forward a
  | backward a => exact plainItem_backward a
  | turnLeft => decide
  | turnRight a => exact plainItem_turnRight a

/-- The pieces of a text are never none. -/
theorem splitCommas_ne_nil (t : Text) : splitCommas t ≠ [] := by
  cases t with
  | nil => simp [splitCommas]
  | cons c t =>
    simp only [splitCommas]
    split
    · simp
    · split <;> simp

/-- A text without a comma is one piece. -/
theorem splitCommas_of_no_comma (t : Text) (h : t.all (fun c => c != ',') = true) : splitCommas t = [t] := by
  induction t with
  | nil => rfl
  | cons c t ih =>
    simp only [List.all_cons, Bool.and_eq_true, bne_iff_ne] at h
    simp [splitCommas, ih h.2, h.1]

/-- A piece ends at the first comma. -/
theorem splitCommas_append (t u : Text) (h : t.all (fun c => c != ',') = true) :
    splitCommas (t ++ ',' :: u) = t :: splitCommas u := by
  induction t with
  | nil =>
    simp only [List.nil_append, splitCommas]
    cases hs : splitCommas u with
    | nil => exact absurd hs (splitCommas_ne_nil u)
    | cons w ws => simp
  | cons c t ih =>
    simp only [List.all_cons, Bool.and_eq_true, bne_iff_ne] at h
    simp [splitCommas, ih h.2, h.1]

end Sys2Proof.Machine
end

