-- ==== Sys2Proof/Tests/Slice0.lean ====
section
/-! SUPPORT. Tests: every expected value is that of 95_test_vectors.md (V1 to V99, P1 to P7) or of the rule named beside
it. Then, for each obligation with hypotheses, a state and operands that meet them all. -/
namespace Sys2Proof.Tests
open Sys2Proof.Machine

/-! ### Small states and samples -/

/-- A cycle that is a tick. -/
def ticking : Input := { Input.quiet with tickEn := true }

/-- A cycle with reset. -/
def resetting : Input := { Input.quiet with rst := true }

/-- A cycle in which a packet is offered. -/
def offering (ok : Bool) (f : List Byte) : Input :=
  { Input.quiet with rxValid := true, rxOk := ok, rxBuf := padFrame f [] }

/-- A cycle in which the transmit ends. -/
def ending (ok : Bool) : Input := { Input.quiet with txDone := true, txOk := ok }

/-- After reset, with samples. -/
def idleWith (xs : List Input) : State := { State.reset with inputs := xs }

/-- The start of the one-instruction batch `[b]`, with one sample. -/
def issueOf (b : Byte) (l : Lines) (h : Bool) (x : Input) : State :=
  { State.reset with st := .issue, cnt := 1#6, mem := [(0, b)], lines := l, hb := h, inputs := [x] }

/-- The hold of the one-instruction batch `[b]` after `t` ticks, with one sample. -/
def waitOf (b : Byte) (t : Ticks) (l : Lines) (h : Bool) (x : Input) : State :=
  { State.reset with st := .wait, cnt := 1#6, cur := b, ticks := t, mem := [(0, b)], lines := l, hb := h,
                     inputs := [x] }

/-- The acknowledgment of an empty batch, with one sample. -/
def ackOf (l : Lines) (x : Input) : State := { State.reset with st := .ack, lines := l, inputs := [x] }

/-- FAULT after the count byte 0x33, with samples. -/
def faultWith (xs : List Input) : State :=
  { State.reset with st := .fault, fault := true, faultCnt := 0x33#8, inputs := xs }

/-- A value of the next state, where there is one. -/
def after {α : Type} (f : State → α) : Result → Option α
  | .next s => some (f s)
  | .fault _ => none
  | .refused _ => none

/-- The sequencer state, the lines and the heartbeat. -/
def motion (s : State) : SeqState × Lines × Bool := (s.st, s.lines, s.hb)

/-- The registers of 10_state.md rule R38 that have a reset value. -/
def registers (s : State) : SeqState × Index × Index × Byte × Ticks × Lines × Bool × Bool × Byte :=
  (s.st, s.cnt, s.k, s.cur, s.ticks, s.lines, s.hb, s.fault, s.faultCnt)

/-! ### Well-formedness -/

/-- 30_encoding.md rule R83: `DETONATE(arg=0)` is refused. -/
theorem test_illformed_detonate : Instr.wellFormed (.detonate 0#5) = false := by decide
/-- 30_encoding.md rule R83: `TURN_RIGHT(arg=0)` is refused. -/
theorem test_illformed_turnRight : Instr.wellFormed (.turnRight 0#5) = false := by decide
/-- 00_scope.md rule R6: 51 instructions are no batch. -/
theorem test_illformed_long_batch : batchWellFormed (List.replicate 51 .stop) = false := by decide
/-- A batch with an ill-formed instruction is refused. -/
theorem test_illformed_in_batch : batchWellFormed [.stop, .turnRight 0#5] = false := by decide
/-- 00_scope.md rule R6: 50 instructions are. -/
theorem test_wellformed_batch : batchWellFormed (List.replicate 50 (.detonate 31#5)) = true := by decide

/-! ### The codec: words written bit by bit from 30_encoding.md rules R70 to R74 -/

theorem test_decode_stop : [0b0_00_00000#8, 0b1_00_00000#8].map classify = [.stop, .stop] := by decide
theorem test_decode_detonate :
    [0b0_00_00001#8, 0b0_00_11111#8, 0b1_00_00001#8].map classify = [.detonate 1#5, .detonate 31#5, .detonate 1#5] := by
  decide
theorem test_decode_forward :
    [0b0_01_00010#8, 0b0_01_11111#8, 0b1_01_00000#8].map classify = [.forward 2#5, .forward 31#5, .forward 0#5] := by
  decide
theorem test_decode_backward :
    [0b0_10_01010#8, 0b0_10_00000#8, 0b1_10_11111#8].map classify = [.backward 10#5, .backward 0#5, .backward 31#5] := by
  decide
theorem test_decode_turnLeft : [0b0_11_00000#8, 0b1_11_00000#8].map classify = [.turnLeft, .turnLeft] := by decide
theorem test_decode_turnRight :
    [0b0_11_00001#8, 0b0_11_11111#8, 0b1_11_11111#8].map classify =
      [.turnRight 1#5, .turnRight 31#5, .turnRight 31#5] := by decide
/-- V1 to V6. -/
theorem test_encode : [Instr.stop, .forward 2#5, .turnRight 31#5, .backward 31#5, .forward 0#5, .detonate 1#5].map encode =
    [[0x00#8], [0x22#8], [0x7F#8], [0x5F#8], [0x20#8], [0x01#8]] := by decide
/-- V7 to V9: the refusals of the wide encoder, which never truncates. -/
theorem test_encode_domain :
    encodeInstrV 0x10#8 0#8 = .error .encoderDomain ∧ encodeInstrV 0x20#8 32#8 = .error .encoderDomain ∧
      encodeInstrV 0x80#8 0#8 = .error .encoderDomain ∧ encodeInstrV 0x40#8 10#8 = .ok 0x4A#8 :=
  ⟨rfl, rfl, rfl, rfl⟩
/-- V17. -/
theorem test_decode_wide : decodeInstrV 0xDF#8 = (0x40#8, 31#8) := by decide
/-- One byte is taken, and a missing byte is refused by name (30_encoding.md rule R81). -/
theorem test_decode_list : decode [0x22#8, 0x60#8] = .ok (.forward 2#5, [0x60#8]) ∧ decode [] = .error .noByte :=
  ⟨rfl, rfl⟩
/-- The words of spec/opcode_table.json's rows; DETONATE and TURN_RIGHT with an argument of 1. -/
theorem test_decode_table_word :
    [0x00, 0x01, 0x20, 0x40, 0x60, 0x61].map (decodeTableWord 8) =
      [some .stop, some (.detonate 1#5), some (.forward 0#5), some (.backward 0#5), some .turnLeft,
        some (.turnRight 1#5)] := by decide

/-! ### The assembler (30_encoding.md rule R83) -/

/-- P1's text and bytes; the class name TURN(arg=0) is the source's spelling (S1). -/
theorem test_assemble_batch :
    assembleBatch "[FORWARD(arg=2), TURN(arg=0), STOP(arg=0)]".toList = .ok [0x22#8, 0x60#8, 0x00#8] := by rfl
/-- The refusals of the rule, and the empty batch of P4. -/
theorem test_assemble_refusals :
    assemble "DETONATE(arg=0)".toList = .error .assemblerSyntax ∧
      assemble "TURN_RIGHT(arg=0)".toList = .error .assemblerSyntax ∧
      assemble "FORWARD(arg=32)".toList = .error .assemblerSyntax ∧ assembleBatch "[]".toList = .ok [] :=
  ⟨rfl, rfl, rfl, rfl⟩
/-- A byte with bit 7 prints as the same instruction (P3's `DF 80`). -/
theorem test_disassemble :
    disassemble 0xDF#8 = "BACKWARD(arg=31)".toList ∧ disassemble 0x80#8 = "STOP".toList ∧
      batchText [.detonate 5#5, .turnRight 1#5, .forward 0#5] =
        "[DETONATE(arg=5), TURN_RIGHT(arg=1), FORWARD(arg=0)]".toList :=
  ⟨rfl, rfl, rfl⟩

/-! ### The framer -/

/-- V30, V31 and V35. -/
theorem test_frame_batch :
    frameBatch 0 [] = .ok [0x02#8, 0x01#8, 0x00#8] ∧
      frameBatch 2 [0x22#8, 0x60#8] = .ok [0x04#8, 0x01#8, 0x02#8, 0x22#8, 0x60#8] ∧
      frameBatch 1 [0xFF#8] = .ok [0x03#8, 0x01#8, 0x01#8, 0xFF#8] := ⟨rfl, rfl, rfl⟩
/-- V32: 50 instructions fill the frame. -/
theorem test_frame_longest :
    frameBatch 50 (List.replicate 50 0x40#8) = .ok (0x34#8 :: 0x01#8 :: 0x32#8 :: List.replicate 50 0x40#8) := by rfl
/-- V31 on the ports (10_state.md rule R34): the 48 entries after the first two are not used. -/
theorem test_frame_ports :
    frameBatchPort 2#6 ((0x22#8 :: 0x60#8 :: List.replicate 48 0xAA#8).toArray.toVector.cast rfl) =
      .ok (padFrame [0x04#8, 0x01#8, 0x02#8, 0x22#8, 0x60#8] [], 5#8) := by rfl
/-- V33 and V34. -/
theorem test_frame_refused :
    frameBatch 51 (List.replicate 51 0x40#8) = .error .batchTooLong ∧
      frameBatch 3 [0x22#8, 0x60#8] = .error .batchTooLong := ⟨rfl, rfl⟩
/-- V36 to V39: the order of the checks. -/
theorem test_parse_drops :
    parseBatch false (padFrame [0x05#8, 0x01#8, 0x03#8, 0x22#8, 0x60#8, 0x00#8] []) = .drop .malformed ∧
      parseBatch true (padFrame [0x03#8, 0x02#8, 0x01#8, 0x22#8] []) = .drop .address ∧
      parseBatch false (padFrame [0x03#8, 0x02#8, 0x33#8] []) = .drop .malformed ∧
      parseBatch true (padFrame [0x35#8, 0x02#8, 0x33#8] []) = .drop .address := by decide
/-- V40 and V41. -/
theorem test_parse_bounds :
    parseBatch true (padFrame [0x35#8, 0x01#8, 0x33#8] []) = .bounds 0x33#8 ∧
      parseBatch true (padFrame [0x00#8, 0x01#8, 0xFF#8] []) = .bounds 0xFF#8 := by decide
/-- V43 to V45: the length byte and the bytes after the instructions are not read. -/
theorem test_parse_accepts :
    parseBatch true (padFrame [0x02#8, 0x01#8, 0x00#8] []) = .accept 0#8 [] ∧
      parseBatch true (padFrame [0x09#8, 0x01#8, 0x01#8, 0x22#8, 0x7F#8, 0x7F#8] []) = .accept 1#8 [0x22#8] ∧
      parseBatch true (padFrame [0x00#8, 0x01#8, 0x02#8, 0x22#8, 0x40#8] []) = .accept 2#8 [0x22#8, 0x40#8] := by
  decide
/-- V47 to V51. -/
theorem test_ack_frames :
    frameAck = [0x02#8, 0x01#8, 0x11#8] ∧
      parseAck true (padFrame [0x02#8, 0x01#8, 0x11#8] []) = .ack 0x11#8 ∧
      parseAck true (padFrame [0x02#8, 0x01#8, 0x42#8] []) = .ack 0x42#8 ∧
      parseAck true (padFrame [0x02#8, 0x03#8, 0x11#8] []) = .drop .address ∧
      parseAck false (padFrame [0x02#8, 0x01#8, 0x11#8] []) = .drop .malformed := by decide

/-! ### The instructions, one clock cycle each -/

/-- V62: STOP with bit 7 set clears D. -/
theorem test_stop_setup : after motion (step (issueOf 0x80#8 0b10000#5 false ticking)) =
    some (.wait, 0b00000#5, false) := by decide
/-- V61: the heartbeat goes from 1 to 0. -/
theorem test_stop_finish : after motion (step (waitOf 0x00#8 0#16 0b00000#5 true ticking)) =
    some (.issue, 0b00000#5, false) := by decide
/-- V63. -/
theorem test_detonate_setup : after motion (step (issueOf 0x01#8 0b00000#5 false ticking)) =
    some (.wait, 0b10000#5, false) := by decide
/-- V64: D stays asserted. -/
theorem test_detonate_finish : after motion (step (waitOf 0x1F#8 0#16 0b10000#5 true ticking)) =
    some (.issue, 0b10000#5, false) := by decide
/-- V66: FORWARD clears D at its Setup. -/
theorem test_forward_setup : after motion (step (issueOf 0x21#8 0b10000#5 false ticking)) =
    some (.wait, 0b00001#5, false) := by decide
/-- V67: 5000 ticks end FORWARD(arg=10). -/
theorem test_forward_finish : after motion (step (waitOf 0x2A#8 5000#16 0b00001#5 true ticking)) =
    some (.issue, 0b00000#5, false) := by decide
/-- V69. -/
theorem test_backward_setup : after motion (step (issueOf 0x40#8 0b10000#5 false ticking)) =
    some (.wait, 0b00100#5, false) := by decide
/-- V71: one tick before the end of the longest hold BACKWARD still holds. -/
theorem test_backward_hold : after motion (step (waitOf 0x5F#8 15499#16 0b00100#5 true ticking)) =
    some (.wait, 0b00100#5, true) := by decide
/-- V73: D is kept beside L. -/
theorem test_turnLeft_setup : after motion (step (issueOf 0x60#8 0b10000#5 true ticking)) =
    some (.wait, 0b10010#5, true) := by decide
/-- V73: the Finish leaves D and the heartbeat. -/
theorem test_turnLeft_finish : after motion (step (waitOf 0x60#8 15500#16 0b10010#5 true ticking)) =
    some (.issue, 0b10000#5, true) := by decide
/-- V77. -/
theorem test_turnRight_setup : after motion (step (issueOf 0xFF#8 0b00000#5 false ticking)) =
    some (.wait, 0b01000#5, false) := by decide
/-- V75: the argument 1 does not shorten the hold. -/
theorem test_turnRight_hold : after motion (step (waitOf 0x61#8 500#16 0b01000#5 false ticking)) =
    some (.wait, 0b01000#5, false) := by decide

/-! ### The sequencer -/

/-- P1, cycle 0. -/
theorem test_accept :
    after (fun s => (s.st, s.cnt, s.k, s.mem))
        (step (idleWith [offering true [0x05#8, 0x01#8, 0x03#8, 0x22#8, 0x60#8, 0x00#8]])) =
      some (.issue, 3#6, 0#6, [(0, 0x22#8), (1, 0x60#8), (2, 0x00#8)]) := by rfl
/-- V78: a cycle that is no tick counts nothing. -/
theorem test_stalled_hold : after State.ticks (step (waitOf 0x21#8 7#16 0b00001#5 false Input.quiet)) = some 7#16 := by
  decide
/-- V81: the largest hold fits the counter. -/
theorem test_counter_ceiling : turnHold = 0x3C8C#16 ∧ scaledHold 31#5 = 0x3C8C#16 := by decide
/-- V92. -/
theorem test_bounds_fault :
    after (fun s => (s.st, s.fault, s.faultCnt, s.lines))
        (step { idleWith [offering true [0x35#8, 0x01#8, 0x33#8]] with lines := 0b10000#5 }) =
      some (.fault, true, 0x33#8, 0b00000#5) := by decide
/-- V93: FAULT takes no packet. -/
theorem test_fault_stays :
    after registers (step (faultWith [offering true [0x02#8, 0x01#8, 0x00#8]])) = some (registers (faultWith [])) := by
  rfl
/-- V94. -/
theorem test_reset_leaves_fault : after registers (step (faultWith [resetting])) =
    some (.idle, 0#6, 0#6, 0x00#8, 0#16, 0b00000#5, false, false, 0x00#8) := by rfl
/-- V96: the ack is sent once, whatever `tx_ok`. -/
theorem test_ack_sent : after State.st (step (ackOf 0b10000#5 (ending false))) = some .idle ∧
    (ackOf 0b10000#5 (ending false)).transmission = some ⟨[0x02#8, 0x01#8, 0x11#8], false⟩ := ⟨rfl, rfl⟩
/-- V98: a packet offered during a hold is not taken. -/
theorem test_busy : after State.st (step (waitOf 0x21#8 7#16 0b00001#5 false
    (offering true [0x03#8, 0x01#8, 0x01#8, 0x40#8]))) = some .wait := by decide
/-- V99. -/
theorem test_issue_done :
    after State.st (step { issueOf 0x00#8 0b00000#5 false ticking with cnt := 0#6 }) = some .ack := by rfl
/-- The first step after placing FORWARD(arg=2) at reset starts it. -/
theorem test_placed_word :
    after (fun s => (s.st, s.cur, s.lines)) (step (State.reset.withFetchWord 8 0x22)) =
      some (.wait, 0x22#8, 0b00001#5) := by rfl
/-- P4: an empty batch takes 3 cycles and sends one ack in the last. -/
theorem test_empty_batch :
    transmissions (trace 3 (idleWith [offering true [0x02#8, 0x01#8, 0x00#8], ticking, ending true])) =
      [(2, ⟨[0x02#8, 0x01#8, 0x11#8], true⟩)] := by rfl

/-! ### Witnesses: for each obligation with hypotheses, what meets them all -/

/-- A frame whose count is 50. -/
def fullFrame : List Byte := 0x34#8 :: 0x01#8 :: 0x32#8 :: List.replicate 50 0x40#8
/-- A frame whose count byte is one above MAX_BATCH. -/
def overFrame : List Byte := [0x35#8, 0x01#8, 0x33#8]
/-- The frame of an empty batch. -/
def emptyFrame : List Byte := [0x02#8, 0x01#8, 0x00#8]

/-- A state of ISSUE that meets the invariant. -/
theorem witness_inv_issue : Inv (issueOf 0x21#8 0b10000#5 false ticking) := by
  constructor <;> decide
/-- A state of WAIT that meets it, D and L asserted. -/
theorem witness_inv_wait : Inv (waitOf 0x60#8 7#16 0b10010#5 true ticking) := by
  constructor <;> decide
/-- A state of WAIT at the end of its hold that meets it. -/
theorem witness_inv_finish : Inv (waitOf 0x21#8 500#16 0b00001#5 true ticking) := by
  constructor <;> decide
/-- A state of FAULT that meets it. -/
theorem witness_inv_fault : Inv (faultWith [ticking]) := by
  constructor <;> decide

theorem witness_OpcodeArgumentRoundTrip :
    0x60#8 ∈ [0x00#8, 0x20#8, 0x40#8, 0x60#8] ∧ (31#8).toNat ≤ 31 ∧ 0x00#8 ∈ [0x00#8, 0x20#8, 0x40#8, 0x60#8] ∧
      (0#8).toNat ≤ 31 := by decide
/-- Each of the two refused sides at its boundary, and the largest accepted pair. -/
theorem witness_EncoderValueAndDomain :
    (0x80#8 &&& 0x9F#8 ≠ 0#8 ∨ (0#8).toNat > 31) ∧ (0x60#8 &&& 0x9F#8 ≠ 0#8 ∨ (32#8).toNat > 31) ∧
      0x60#8 &&& 0x9F#8 = 0#8 ∧ (31#8).toNat ≤ 31 := by decide
/-- Each row's smallest and largest byte below 128 (30_encoding.md rule R74). -/
theorem witness_OneOpcodeRowPerByte :
    opcodeTable.map (fun r => ((List.range 128).filter fun v => r.selects (BitVec.ofNat 8 v)).head?) =
        [some 0, some 1, some 32, some 64, some 96, some 97] ∧
      opcodeTable.map (fun r => ((List.range 128).filter fun v => r.selects (BitVec.ofNat 8 v)).getLast?) =
        [some 0, some 31, some 63, some 95, some 96, some 127] := by decide
theorem witness_EveryInstructionRoundTrips :
    [Instr.stop, .detonate 1#5, .forward 31#5, .backward 0#5, .turnLeft, .turnRight 31#5].all Instr.wellFormed = true := by
  decide
theorem witness_BatchTextAssembles : [Instr.detonate 31#5, .turnRight 1#5].all Instr.wellFormed = true := by decide
/-- Digit texts at the ends of the ranges of the rows and one beyond. -/
theorem witness_AssemblerAliasesAndRefusals :
    ["0", "1", "31", "32"].map (fun d => decimal d.toList) = [some 0, some 1, some 31, some 32] := by decide
/-- The two refused sides at their boundaries, and the two ends of the accepted range, on lists and on the ports. -/
theorem witness_BatchFrameBytes :
    (50 < 51 ∨ (List.replicate 51 0x40#8).length ≠ 51) ∧ (50 < 3 ∨ [0x22#8, 0x60#8].length ≠ 3) ∧
      (50 ≤ 50 ∧ (List.replicate 50 0x40#8).length = 50) ∧ (0 ≤ 50 ∧ ([] : List Byte).length = 0) ∧
      50 < (51#6).toNat ∧ (50#6).toNat ≤ 50 ∧ (0#6).toNat ≤ 50 := by decide
/-- A buffer for each check, the counts 50 and 51 among them. -/
theorem witness_BatchVerdictInOrder :
    (padFrame [0x03#8, 0x02#8, 0x01#8] [])[1] ≠ 0x01#8 ∧
      ((padFrame overFrame [])[1] = 0x01#8 ∧ 50 < (padFrame overFrame [])[2].toNat) ∧
      ((padFrame fullFrame [])[1] = 0x01#8 ∧ (padFrame fullFrame [])[2].toNat ≤ 50) := by decide
/-- Two frames that differ in the length byte and after the one instruction. -/
theorem witness_BatchParserIgnoresLengthAndTail :
    (padFrame [0x09#8, 0x01#8, 0x01#8, 0x22#8, 0x7F#8] [])[1] = (padFrame [0x00#8, 0x01#8, 0x01#8, 0x22#8, 0x33#8] [])[1] ∧
      (padFrame [0x09#8, 0x01#8, 0x01#8, 0x22#8, 0x7F#8] [])[2] = (padFrame [0x00#8, 0x01#8, 0x01#8, 0x22#8, 0x33#8] [])[2] ∧
      ∀ j, j < (padFrame [0x09#8, 0x01#8, 0x01#8, 0x22#8, 0x7F#8] [])[2].toNat →
        (padFrame [0x09#8, 0x01#8, 0x01#8, 0x22#8, 0x7F#8] []).toList[3 + j]? =
          (padFrame [0x00#8, 0x01#8, 0x01#8, 0x22#8, 0x33#8] []).toList[3 + j]? := by decide
/-- The two ends of the range. -/
theorem witness_FramingRoundTrip :
    (50 ≤ 50 ∧ (List.replicate 50 0x40#8).length = 50 ∧ frameBatch 50 (List.replicate 50 0x40#8) = .ok fullFrame ∧
      fullFrame <+: (padFrame fullFrame []).toList) ∧
    (0 ≤ 50 ∧ ([] : List Byte).length = 0 ∧ frameBatch 0 [] = .ok emptyFrame ∧
      emptyFrame <+: (padFrame emptyFrame [0x77#8]).toList) :=
  ⟨⟨by decide, rfl, rfl, by decide⟩, ⟨by decide, rfl, rfl, by decide⟩⟩
theorem witness_AckFrames :
    frameAck <+: (padFrame frameAck [0x55#8]).toList ∧ (padFrame frameAck [])[1] = 0x01#8 ∧
      (padFrame [0x02#8, 0x03#8] [])[1] ≠ 0x01#8 ∧ frameBatch 0 [] = .ok emptyFrame ∧
      emptyFrame <+: (padFrame emptyFrame []).toList := ⟨by decide, by decide, by decide, rfl, by decide⟩
theorem witness_FramedBatchDecodesToItself :
    batchWellFormed (List.replicate 50 (.turnRight 31#5)) = true ∧ batchWellFormed [] = true := by decide

/-- ISSUE, with D asserted and with D to be cleared. -/
theorem witness_StopClearsEveryLine :
    (issueOf 0x00#8 0b10000#5 false ticking).st = .issue ∧ (issueOf 0x00#8 0b10000#5 false ticking).lines = 0b10000#5 ∧
      after State.lines (exec .stop (issueOf 0x00#8 0b10000#5 false ticking)) = some 0b00000#5 ∧
      (waitOf 0x00#8 0#16 0b00000#5 false ticking).st = .wait ∧
      (waitOf 0x00#8 0#16 0b00000#5 false ticking).ticks = 0#16 := by decide
theorem witness_DetonateAssertsOnlyDetonate :
    (issueOf 0x20#8 0b10000#5 false ticking).lines.getLsbD 4 = true ∧
      after State.lines (exec (.forward 0#5) (issueOf 0x20#8 0b10000#5 false ticking)) = some 0b00001#5 ∧
      (waitOf 0x1F#8 0#16 0b10000#5 false ticking).st = .wait ∧
      (waitOf 0x1F#8 0#16 0b10000#5 false ticking).ticks = 0#16 := by decide
/-- The end of the longest hold, the cycle before it, and a hold of 0. -/
theorem witness_ForwardHoldsForward :
    (waitOf 0x3F#8 15500#16 0b00001#5 false ticking).ticks.toNat = 500 * (31#5).toNat ∧
      (waitOf 0x3F#8 15499#16 0b00001#5 false ticking).ticks.toNat ≠ 500 * (31#5).toNat ∧
      (waitOf 0x20#8 0#16 0b00001#5 false ticking).ticks.toNat = 500 * (0#5).toNat ∧
      (issueOf 0x3F#8 0b00000#5 false ticking).st = .issue := by decide
/-- The end of the longest hold, the cycle before it, and a hold of 0. -/
theorem witness_BackwardHoldsBackward :
    (waitOf 0x5F#8 15500#16 0b00100#5 false ticking).ticks.toNat = 500 * (31#5).toNat ∧
      (waitOf 0x5F#8 15499#16 0b00100#5 false ticking).ticks.toNat ≠ 500 * (31#5).toNat ∧
      (waitOf 0x40#8 0#16 0b00100#5 false ticking).ticks.toNat = 500 * (0#5).toNat ∧
      (issueOf 0x5F#8 0b00000#5 false ticking).st = .issue := by decide
theorem witness_TurnLeftHoldsLeft :
    (issueOf 0x60#8 0b10000#5 false ticking).st = .issue ∧ (waitOf 0x60#8 15500#16 0b00010#5 false ticking).st = .wait ∧
      (waitOf 0x60#8 15500#16 0b00010#5 false ticking).ticks.toNat = 15500 ∧
      (waitOf 0x60#8 15499#16 0b00010#5 false ticking).ticks.toNat ≠ 15500 := by decide
theorem witness_TurnRightHoldsRight :
    (issueOf 0x61#8 0b10000#5 false ticking).st = .issue ∧ (waitOf 0x61#8 15500#16 0b01000#5 false ticking).st = .wait ∧
      (waitOf 0x61#8 15500#16 0b01000#5 false ticking).ticks.toNat = 15500 ∧
      (waitOf 0x61#8 15499#16 0b01000#5 false ticking).ticks.toNat ≠ 15500 := by decide
/-- A next state of each instruction, at a Setup and at a Finish; the lines and the heartbeat change. -/
theorem witness_InstructionFrame :
    [Instr.stop, .detonate 1#5, .forward 1#5, .backward 1#5, .turnLeft, .turnRight 1#5].map
        (fun i => after motion (exec i (issueOf 0x00#8 0b00000#5 false ticking))) =
      [some (.wait, 0b00000#5, false), some (.wait, 0b10000#5, false), some (.wait, 0b00001#5, false),
        some (.wait, 0b00100#5, false), some (.wait, 0b00010#5, false), some (.wait, 0b01000#5, false)] ∧
    after motion (exec (.forward 1#5) (waitOf 0x21#8 500#16 0b00001#5 false ticking)) =
      some (.issue, 0b00000#5, true) := by decide
/-- The opcode value 0x10, in ISSUE and at the end of its hold. -/
theorem witness_DefaultArmIsUnreachedSafetyStop :
    0x10#8 ∉ [0x00#8, 0x20#8, 0x40#8, 0x60#8] ∧ (issueOf 0x00#8 0b10000#5 false ticking).st = .issue ∧
      (waitOf 0x00#8 0#16 0b00000#5 false ticking).st = .wait ∧
      (waitOf 0x00#8 0#16 0b00000#5 false ticking).ticks = 0#16 := by decide
theorem witness_NothingExecutesOutsideIssueAndWait :
    (idleWith []).st = .idle ∧ (ackOf 0b00000#5 ticking).st = .ack ∧ (faultWith []).st = .fault := by decide
theorem witness_HoldMonotonicity : (30#5).toNat < 31 ∧ (0#5).toNat < 31 := by decide

theorem witness_StepRunsTheDecodedInstruction :
    (issueOf 0x61#8 0b00000#5 false ticking).input.rst = false ∧ (issueOf 0x61#8 0b00000#5 false ticking).st = .issue ∧
      (issueOf 0x61#8 0b00000#5 false ticking).k ≠ (issueOf 0x61#8 0b00000#5 false ticking).cnt ∧
      (issueOf 0x61#8 0b00000#5 false ticking).k.toNat < 50 ∧
      decode [(issueOf 0x61#8 0b00000#5 false ticking).readEntry 0] = .ok (.turnRight 1#5, []) ∧
      (waitOf 0x61#8 7#16 0b01000#5 false ticking).st = .wait ∧
      decode [(waitOf 0x61#8 7#16 0b01000#5 false ticking).cur] = .ok (.turnRight 1#5, []) :=
  ⟨rfl, rfl, by decide, by decide, rfl, rfl, rfl⟩
/-- The last instruction of the longest batch, and the end of a batch. -/
theorem witness_IssueCycle :
    { issueOf 0x21#8 0b00000#5 false ticking with k := 49#6, cnt := 50#6, mem := [(49, 0x21#8)] }.st = .issue ∧
      (49#6 ≠ 50#6 ∧ (49#6).toNat < 50) ∧ Memory.entry [(49, 0x21#8)] 49 = some 0x21#8 ∧
      { issueOf 0x21#8 0b00000#5 false ticking with k := 1#6 }.k =
        (issueOf 0x21#8 0b00000#5 false ticking).cnt ∧
      (issueOf 0x21#8 0b00000#5 false ticking).input.rst = false := by decide
/-- The end of a hold, and a cycle before it with and without a tick. -/
theorem witness_WaitCycle :
    (waitOf 0x21#8 500#16 0b00001#5 false ticking).ticks.toNat = holdLength (classify 0x21#8) ∧
      (waitOf 0x21#8 499#16 0b00001#5 false ticking).ticks.toNat ≠ holdLength (classify 0x21#8) ∧
      (waitOf 0x21#8 499#16 0b00001#5 false ticking).input.tickEn = true ∧
      (waitOf 0x21#8 499#16 0b00001#5 false Input.quiet).input.tickEn = false ∧
      (waitOf 0x21#8 499#16 0b00001#5 false Input.quiet).st = .wait ∧
      (waitOf 0x21#8 499#16 0b00001#5 false Input.quiet).input.rst = false := by decide
/-- The longest and the empty batch. -/
theorem witness_AcceptanceStoresTheBatch :
    (idleWith [offering true fullFrame]).input.rst = false ∧ (idleWith [offering true fullFrame]).st = .idle ∧
      (idleWith [offering true fullFrame]).input.rxValid = true ∧
      parseBatch (offering true fullFrame).rxOk (offering true fullFrame).rxBuf =
        .accept 0x32#8 (List.replicate 50 0x40#8) ∧
      parseBatch (offering true emptyFrame).rxOk (offering true emptyFrame).rxBuf = .accept 0x00#8 [] := by decide
/-- A malformed packet with a bad count, and a cycle without a packet in which a tick and the end of a transmit come. -/
theorem witness_MalformedPacketChangesNothing :
    ((idleWith [offering false overFrame]).input.rst = false ∧ (idleWith [offering false overFrame]).st = .idle ∧
      (idleWith [offering false overFrame]).input.rxValid = true ∧
      (idleWith [offering false overFrame]).input.rxOk = false) ∧
    ((idleWith [{ ending true with tickEn := true }]).input.rst = false ∧
      (idleWith [{ ending true with tickEn := true }]).st = .idle ∧
      (idleWith [{ ending true with tickEn := true }]).input.rxValid = false) := by decide
/-- The address 2, the count byte being too large beside it. -/
theorem witness_MisaddressedPacketChangesNothing :
    (idleWith [offering true [0x35#8, 0x02#8, 0x33#8]]).input.rst = false ∧
      (idleWith [offering true [0x35#8, 0x02#8, 0x33#8]]).st = .idle ∧
      (idleWith [offering true [0x35#8, 0x02#8, 0x33#8]]).input.rxValid = true ∧
      (idleWith [offering true [0x35#8, 0x02#8, 0x33#8]]).input.rxBuf[1] ≠ 0x01#8 := by decide
/-- The count bytes 51 and 255. -/
theorem witness_BoundsFaultEntry :
    (idleWith [offering true overFrame]).input.rst = false ∧ (idleWith [offering true overFrame]).st = .idle ∧
      (idleWith [offering true overFrame]).input.rxValid = true ∧
      (idleWith [offering true overFrame]).input.rxOk = true ∧
      (idleWith [offering true overFrame]).input.rxBuf[1] = 0x01#8 ∧
      50 < (idleWith [offering true overFrame]).input.rxBuf[2].toNat ∧
      50 < (idleWith [offering true [0x00#8, 0x01#8, 0xFF#8]]).input.rxBuf[2].toNat := by decide
theorem witness_AckEndsWithTxDone :
    (ackOf 0b10000#5 (ending false)).input.rst = false ∧ (ackOf 0b10000#5 (ending false)).st = .ack ∧
      (ackOf 0b10000#5 (ending false)).input.txDone = true ∧ (ackOf 0b10000#5 ticking).input.txDone = false ∧
      after State.st (step { issueOf 0x00#8 0b00000#5 false ticking with k := 1#6 }) = some .ack := by decide
theorem witness_TransmissionEndsInAck :
    (ackOf 0b10000#5 (ending false)).input.rst = false ∧ (ackOf 0b10000#5 (ending false)).st = .ack ∧
      (ackOf 0b10000#5 (ending false)).input.txDone = true ∧ (ackOf 0b10000#5 (ending false)).transmission ≠ none ∧
      (ackOf 0b10000#5 (ending false)).inputs = ending false :: [] := by decide
theorem witness_ResetWinsInEveryState :
    (waitOf 0x60#8 7#16 0b00010#5 true resetting).input.rst = true ∧ (faultWith [resetting]).input.rst = true := by decide

theorem witness_PacketWhileBusyIsNotTaken :
    (waitOf 0x60#8 7#16 0b00010#5 true ticking).inputs = ticking :: [] ∧
      (waitOf 0x60#8 7#16 0b00010#5 true ticking).st ≠ .idle := by decide
theorem witness_TicksCountOnlyInAHold :
    (idleWith [ticking]).inputs = ticking :: [] ∧ (idleWith [ticking]).st ≠ .wait ∧
      (waitOf 0x21#8 500#16 0b00001#5 true ticking).inputs = ticking :: [] ∧
      (waitOf 0x21#8 500#16 0b00001#5 true ticking).ticks.toNat = holdLength (classify 0x21#8) := by decide
theorem witness_TxDoneMattersOnlyInAck :
    (waitOf 0x21#8 7#16 0b00001#5 true ticking).inputs = ticking :: [] ∧
      (waitOf 0x21#8 7#16 0b00001#5 true ticking).st ≠ .ack ∧
      (ackOf 0b00000#5 (ending true)).inputs = ending true :: [] ∧ true = (ending true).txDone := by decide

/-- A step from each sequencer state, and one with reset. -/
theorem witness_TransitionTable :
    [idleWith [ticking], idleWith [offering true fullFrame], idleWith [offering true overFrame],
        idleWith [offering false overFrame], issueOf 0x21#8 0b00000#5 false ticking,
        { issueOf 0x21#8 0b00000#5 false ticking with k := 1#6 }, waitOf 0x21#8 500#16 0b00001#5 false ticking,
        waitOf 0x21#8 499#16 0b00001#5 false ticking, ackOf 0b00000#5 (ending true), ackOf 0b00000#5 ticking,
        faultWith [ticking], faultWith [resetting]].map (fun s => after State.st (step s)) =
      [some .idle, some .issue, some .fault, some .idle, some .wait, some .ack, some .issue, some .wait, some .idle,
        some .ack, some .fault, some .idle] := by decide
/-- Each cause that a cycle can have. -/
theorem witness_ErrorCausesAndEffects :
    (idleWith [offering false overFrame]).cause = some .dropMalformed ∧
      (idleWith [offering true [0x03#8, 0x02#8, 0x33#8]]).cause = some .dropAddress ∧
      (idleWith [offering true overFrame]).cause = some .faultBounds ∧
      (ackOf 0b00000#5 (ending false)).cause = some .ackLost := by decide
theorem witness_OnlyBoundsSetsAndResetClearsFault :
    after (fun t => (t.fault, t.faultCnt)) (step (idleWith [offering true overFrame])) = some (true, 0x33#8) ∧
      after (fun t => (t.fault, t.faultCnt)) (step (faultWith [resetting])) = some (false, 0x00#8) := by decide
theorem witness_OnlyFinishTogglesHeartbeat :
    after State.hb (step (waitOf 0x21#8 500#16 0b00001#5 false ticking)) = some true ∧
      after State.hb (step (waitOf 0x60#8 15500#16 0b00010#5 false ticking)) = some false ∧
      (waitOf 0x21#8 500#16 0b00001#5 false ticking).input.rst = false := by decide
/-- The three ways D is cleared. -/
theorem witness_DetonatePersists :
    [issueOf 0x00#8 0b10000#5 false ticking, { idleWith [offering true overFrame] with lines := 0b10000#5 },
        ackOf 0b10000#5 resetting].map (fun s => (s.lines.getLsbD 4, after (fun t => t.lines.getLsbD 4) (step s))) =
      [(true, some false), (true, some false), (true, some false)] := by decide
theorem witness_BatchStoreStableDuringBatch :
    after State.st (step (waitOf 0x21#8 7#16 0b00001#5 false ticking)) = some .wait ∧
      (waitOf 0x21#8 7#16 0b00001#5 false ticking).st ≠ .idle ∧
      (waitOf 0x21#8 7#16 0b00001#5 false ticking).input.rst = false ∧ (idleWith [ticking]).input.rxValid = false ∧
      parseBatch (offering true overFrame).rxOk (offering true overFrame).rxBuf = .bounds 0x33#8 := by decide
/-- The two clauses: a Finish, and another cycle. -/
theorem witness_CursorAdvancesByOne :
    Inv (waitOf 0x21#8 500#16 0b00001#5 true ticking) ∧
      after State.k (step (waitOf 0x21#8 500#16 0b00001#5 true ticking)) = some 1#6 ∧
      Inv (issueOf 0x21#8 0b10000#5 false ticking) ∧
      after State.k (step (issueOf 0x21#8 0b10000#5 false ticking)) = some 0#6 :=
  ⟨witness_inv_finish, by decide, witness_inv_issue, by decide⟩
theorem witness_CountersNeverWrap :
    Inv (waitOf 0x60#8 7#16 0b10010#5 true ticking) ∧ (waitOf 0x60#8 7#16 0b10010#5 true ticking).st = .wait ∧
      (waitOf 0x60#8 7#16 0b10010#5 true ticking).ticks.toNat ≠ holdLength (classify 0x60#8) :=
  ⟨witness_inv_wait, by decide, by decide⟩
/-- A state that meets the invariant and whose fetched instruction asserts F over D. -/
theorem witness_StepKeepsTheInvariant :
    Inv (issueOf 0x21#8 0b10000#5 false ticking) ∧ Inv (faultWith [ticking]) := ⟨witness_inv_issue, witness_inv_fault⟩
theorem witness_MotionLinesExclusive : Inv (waitOf 0x60#8 7#16 0b10010#5 true ticking) := witness_inv_wait

/-- FAULT with a packet and then a tick: two cycles without reset. -/
theorem witness_FaultLastsUntilReset :
    (faultWith [offering true emptyFrame, ticking]).st = .fault ∧
      noReset 2 (faultWith [offering true emptyFrame, ticking]) := by
  refine ⟨rfl, fun j hj t h => ?_⟩
  have : j = 0 ∨ j = 1 := by omega
  rcases this with rfl | rfl <;> cases h <;> rfl
/-- A hold of two cycles without a tick, and an ACK of one cycle without `tx_done`. -/
theorem witness_StallsNeverTimeOut :
    (noReset 1 (waitOf 0x21#8 7#16 0b00001#5 false Input.quiet) ∧
      (waitOf 0x21#8 7#16 0b00001#5 false Input.quiet).st = .wait ∧
      (waitOf 0x21#8 7#16 0b00001#5 false Input.quiet).ticks.toNat ≠ holdLength (classify 0x21#8) ∧
      ∀ j, j < 1 → ∀ t, run j (waitOf 0x21#8 7#16 0b00001#5 false Input.quiet) = .next t → t.input.tickEn = false) ∧
    (noReset 1 (ackOf 0b00000#5 ticking) ∧ (ackOf 0b00000#5 ticking).st = .ack ∧
      ∀ j, j < 1 → ∀ t, run j (ackOf 0b00000#5 ticking) = .next t → t.input.txDone = false) := by
  refine ⟨⟨fun j hj t h => ?_, rfl, by decide, fun j hj t h => ?_⟩, ⟨fun j hj t h => ?_, rfl, fun j hj t h => ?_⟩⟩ <;>
    (obtain rfl : j = 0 := by omega) <;> cases h <;> rfl
/-- The start of the one-instruction batch `[b]` with the samples of its whole execution: ISSUE, the hold, the exit. -/
def wholeOf (b : Byte) (pre : List Input) : State :=
  { issueOf b 0b00000#5 false ticking with inputs := ticking :: (pre ++ Input.quiet :: []) }
/-- FORWARD(arg=1), whose hold begins with a cycle that is no tick and has 500 that are. -/
theorem witness_WholeInstructionUnderAnyTicks :
    (wholeOf 0x21#8 ((Input.quiet :: List.replicate 499 ticking) ++ [ticking])).st = .issue ∧
      (wholeOf 0x21#8 ((Input.quiet :: List.replicate 499 ticking) ++ [ticking])).k ≠
        (wholeOf 0x21#8 ((Input.quiet :: List.replicate 499 ticking) ++ [ticking])).cnt ∧
      (wholeOf 0x21#8 ((Input.quiet :: List.replicate 499 ticking) ++ [ticking])).k.toNat < 50 ∧
      (wholeOf 0x21#8 ((Input.quiet :: List.replicate 499 ticking) ++ [ticking])).mem.entry 0 = some 0x21#8 ∧
      (wholeOf 0x21#8 ((Input.quiet :: List.replicate 499 ticking) ++ [ticking])).inputs =
        ticking :: (((Input.quiet :: List.replicate 499 ticking) ++ [ticking]) ++ Input.quiet :: []) ∧
      ticking.rst = false ∧ (∀ y ∈ (Input.quiet :: List.replicate 499 ticking) ++ [ticking], y.rst = false) ∧
      Input.quiet.rst = false ∧
      tickCount ((Input.quiet :: List.replicate 499 ticking) ++ [ticking]) = holdLength (classify 0x21#8) ∧
      ticking.tickEn = true := by
  refine ⟨rfl, by decide, by decide, rfl, rfl, rfl, ?_, rfl, ?_, rfl⟩
  · intro y hy
    simp only [List.mem_append, List.mem_cons, List.mem_replicate, List.not_mem_nil, or_false] at hy
    rcases hy with (rfl | ⟨-, rfl⟩) | rfl <;> rfl
  · have h : ticking.tickEn = true := rfl
    rw [tickCount, List.filter_append, List.filter_cons_of_neg (by decide), List.filter_replicate_of_pos h,
      List.length_append, List.length_replicate]
    decide
/-- STOP, whose hold has no cycle before the exit. -/
theorem witness_WholeInstructionUnderAnyTicks_stop :
    (wholeOf 0x00#8 []).st = .issue ∧ (wholeOf 0x00#8 []).k ≠ (wholeOf 0x00#8 []).cnt ∧
      (wholeOf 0x00#8 []).k.toNat < 50 ∧ (wholeOf 0x00#8 []).mem.entry 0 = some 0x00#8 ∧
      (wholeOf 0x00#8 []).inputs = ticking :: ([] ++ Input.quiet :: []) ∧ ticking.rst = false ∧
      Input.quiet.rst = false ∧ tickCount [] = holdLength (classify 0x00#8) := by decide
/-- The samples of the batch `[STOP]`: three cycles to its end, one of waiting, and the end of the transmit. -/
theorem witness_BatchRunsToOneAck :
    (idleWith (offering true [0x03#8, 0x01#8, 0x01#8, 0x00#8] ::
        (List.replicate 3 ticking ++ [Input.quiet] ++ ending true :: []))).st = .idle ∧
      parseBatch true (padFrame [0x03#8, 0x01#8, 0x01#8, 0x00#8] []) = .accept 1#8 [0x00#8] ∧
      (∀ y ∈ List.replicate 3 ticking, y.rst = false ∧ y.tickEn = true) ∧
      (List.replicate 3 ticking).length = executeCycles (decodeBatch [0x00#8]) ∧
      (∀ y ∈ [Input.quiet], y.rst = false ∧ y.txDone = false) ∧ (ending true).rst = false ∧
      (ending true).txDone = true := by decide
/-- A busy state whose next cycle returns to IDLE, and one whose next cycle does not. -/
theorem witness_ExactlyOneAckPerBatch :
    ((ackOf 0b00000#5 (ending true)).busy = true ∧ noReset 1 (ackOf 0b00000#5 (ending true)) ∧
      after State.st (run 1 (ackOf 0b00000#5 (ending true))) = some .idle) ∧
    ((ackOf 0b00000#5 ticking).busy = true ∧ noReset 1 (ackOf 0b00000#5 ticking) ∧
      after State.st (run 1 (ackOf 0b00000#5 ticking)) = some .ack) := by
  refine ⟨⟨rfl, fun j hj t h => ?_, rfl⟩, ⟨rfl, fun j hj t h => ?_, rfl⟩⟩ <;>
    (obtain rfl : j = 0 := by omega) <;> cases h <;> rfl
theorem witness_UnwrittenStoreIsNeverSeen : Inv (issueOf 0x21#8 0b10000#5 false ticking) := witness_inv_issue

end Sys2Proof.Tests
end

/-! PROOFS. The codec's fields and its round trip (40_codec.md rules R100 to R105). -/
namespace Sys2Proof

/-! ### What the decoder reads -/

theorem decodeInstr_op_toNat (b : Byte) : (decodeInstr b).1.toNat = b.toNat / 32 % 4 := by
  rw [decodeInstr, BitVec.extractLsb'_toNat, Nat.shiftRight_eq_div_pow]

theorem decodeInstr_arg_toNat (b : Byte) : (decodeInstr b).2.toNat = b.toNat % 32 := by
  rw [decodeInstr, BitVec.extractLsb'_toNat, Nat.shiftRight_zero]

/-- The two fields of `0x80` are 0, so flipping bit 7 flips no bit of either field. -/
@[simp] theorem decodeInstr_xor_bit_seven (b : Byte) : decodeInstr (b ^^^ 0x80#8) = decodeInstr b := by
  have hop : (0x80#8).extractLsb' 5 2 = 0#2 := by decide
  have harg : (0x80#8).extractLsb' 0 5 = 0#5 := by decide
  simp only [decodeInstr, BitVec.extractLsb'_xor, hop, harg, BitVec.xor_zero]

/-! ### Decoding after encoding -/

theorem encodeInstr_toNat (op : BitVec 2) (arg : Arg) :
    (encodeInstr op arg).toNat = op.toNat * 32 + arg.toNat := by
  have harg : arg.toNat < 2 ^ 5 := arg.isLt
  simp only [encodeInstr, BitVec.toNat_append]
  rw [← Nat.shiftLeft_add_eq_or_of_lt harg]
  simp [Nat.shiftLeft_eq]

/-- The fields of `op * 32 + arg` are `op` and `arg`, since `arg < 32` and `op < 4`. -/
@[simp] theorem decodeInstr_encodeInstr (op : BitVec 2) (arg : Arg) :
    decodeInstr (encodeInstr op arg) = (op, arg) := by
  have hop : op.toNat < 4 := op.isLt
  have harg : arg.toNat < 32 := arg.isLt
  have hopBack : (decodeInstr (encodeInstr op arg)).1.toNat = op.toNat := by
    rw [decodeInstr_op_toNat, encodeInstr_toNat]
    omega
  have hargBack : (decodeInstr (encodeInstr op arg)).2.toNat = arg.toNat := by
    rw [decodeInstr_arg_toNat, encodeInstr_toNat]
    omega
  exact Prod.ext (BitVec.eq_of_toNat_eq hopBack) (BitVec.eq_of_toNat_eq hargBack)

/-! ### The codec in the source's terms -/

/-- On its domain the wide encoder answers the union of its inputs (rule R101). -/
theorem encodeInstrV_of_domain {opv arg : Byte} (hop : opv &&& 0x9F#8 = 0#8) (harg : arg.toNat ≤ 31) :
    encodeInstrV opv arg = .ok (opv ||| arg) :=
  if_neg (not_or.mpr ⟨not_not.mpr hop, Nat.not_lt.mpr harg⟩)

theorem and_argMask_of_le {arg : Byte} (harg : arg.toNat ≤ 31) : arg &&& 0x1F#8 = arg := by
  refine BitVec.eq_of_toNat_eq ?_
  calc (arg &&& 0x1F#8).toNat = arg.toNat % 2 ^ 5 := Nat.and_two_pow_sub_one_eq_mod arg.toNat 5
    _ = arg.toNat := Nat.mod_eq_of_lt (Nat.lt_succ_of_le harg)

/-- The masks `0x60` and `0x1F` are disjoint and part the union again: `opv` lies in the first, `arg` in the second. -/
theorem decodeInstrV_or {opv arg : Byte} (hop : opv &&& 0x60#8 = opv) (harg : arg &&& 0x1F#8 = arg) :
    decodeInstrV (opv ||| arg) = (opv, arg) := by
  have hdisjoint : 0x60#8 &&& 0x1F#8 = 0#8 := by decide
  have hopArg : opv &&& 0x1F#8 = 0#8 := by
    rw [← hop, BitVec.and_assoc, hdisjoint, BitVec.and_zero]
  have hargOp : arg &&& 0x60#8 = 0#8 := by
    rw [← harg, BitVec.and_assoc, BitVec.and_comm 0x1F#8, hdisjoint, BitVec.and_zero]
  simp only [decodeInstrV, BitVec.and_or_distrib_right, hop, harg, hopArg, hargOp, BitVec.or_zero,
    BitVec.zero_or]

/-- The four masked opcodes of rule R101 lie in the opcode field and outside the mask the encoder refuses. -/
theorem opcodeField_of_mem {opv : Byte} (h : opv ∈ [0x00#8, 0x20#8, 0x40#8, 0x60#8]) :
    opv &&& 0x9F#8 = 0#8 ∧ opv &&& 0x60#8 = opv := by
  revert opv
  decide

/-! ### The statements -/

/-- Settles O1: the 2-bit form from the value of the encoded byte, the wide form from the two disjoint masks. -/
theorem opcodeArgumentRoundTrip : Obligations.OpcodeArgumentRoundTrip := by
  refine ⟨decodeInstr_encodeInstr, fun opv arg hmem harg => ?_⟩
  obtain ⟨hdomain, hfield⟩ := opcodeField_of_mem hmem
  exact ⟨opv ||| arg, encodeInstrV_of_domain hdomain harg, decodeInstrV_or hfield (and_argMask_of_le harg)⟩

/-- Settles O3, from the value of each field and the absence of bit 7 in both. -/
theorem decoderReadsItsFields : Obligations.DecoderReadsItsFields := fun b =>
  ⟨decodeInstr_op_toNat b, decodeInstr_arg_toNat b, decodeInstr_xor_bit_seven b⟩

end Sys2Proof

/-! PROOFS. The sequencer's cycles (42_sequencer.md rules R152, R154 and R157). -/
namespace Sys2Proof.Machine

/-! ### The batch store after acceptance -/

/-- Acceptance writes the batch to the entries from 0 on. -/
theorem State.acceptBatch_entry_of_lt (s : State) (n : Byte) (is : List Byte) {j : Nat} (hj : j < is.length) :
    (s.acceptBatch n is).mem.entry j = is[j]? := by
  rw [State.acceptBatch_mem, Memory.entry_writeFrom, if_pos (by omega), Nat.sub_zero]

/-- Acceptance leaves the entries after the batch alone. -/
theorem State.acceptBatch_entry_of_ge (s : State) (n : Byte) (is : List Byte) {j : Nat} (hj : is.length ≤ j) :
    (s.acceptBatch n is).mem.entry j = s.mem.entry j := by
  rw [State.acceptBatch_mem, Memory.entry_writeFrom, if_neg (by omega)]

/-- A read depends on the store and the reset count only. -/
theorem State.readEntry_congr {s t : State} {j : Nat} (hentry : t.mem.entry j = s.mem.entry j)
    (hepoch : t.epoch = s.epoch) : t.readEntry j = s.readEntry j := by
  rw [State.readEntry, State.readEntry, hentry, hepoch]

/-- A count up to MAX_BATCH fits the 6-bit register `cnt` (10_state.md rule R23). -/
theorem State.acceptBatch_cnt_toNat (s : State) (n : Byte) (is : List Byte) (hn : n.toNat ≤ Config.maxBatch) :
    (s.acceptBatch n is).cnt.toNat = n.toNat := by
  have hfits : n.toNat < 2 ^ 6 := lt_of_le_of_lt hn (by decide)
  rw [State.acceptBatch_cnt, BitVec.toNat_setWidth, Nat.mod_eq_of_lt hfits]

/-! ### The entry to ACK -/

/-- The end of a batch is the only cycle that enters ACK from another sequencer state. -/
theorem CycleCase.ack_source {s u : State} (h : CycleCase s u) (hu : u.st = .ack) (hs : s.st ≠ .ack) :
    s.st = .issue ∧ s.k = s.cnt := by
  cases h with
  | issueDone hissue hk => exact ⟨hissue, hk⟩
  | idleSkip | idleDrop | ackWait | stopped => exact absurd hu hs
  | idleBounds | idleAccept | issueStart | waitFinish | ackDone => cases hu
  | waitHold => exact absurd (s.hold_st.symm.trans hu) hs

/-- A step enters ACK only from ISSUE with the whole batch executed; a reset answers IDLE. -/
theorem step_ack_source {s t : State} (h : step s = .next t) (ht : t.st = .ack) (hs : s.st ≠ .ack) :
    s.st = .issue ∧ s.k = s.cnt := by
  rcases step_next_cases h with ⟨-, rfl⟩ | ⟨-, u, hu, rfl⟩
  · cases ht
  · exact hu.ack_source ht hs

end Sys2Proof.Machine

namespace Sys2Proof
open Machine

/-! ### The statements -/

/-- Settles O29: an accepted batch is as long as its count, which fits `cnt`, and the store is read by the law of a
list write. -/
theorem acceptanceStoresTheBatch : Obligations.AcceptanceStoresTheBatch := by
  intro s n is hrst hidle hvalid hparse
  obtain ⟨-, -, -, hcount, -, hlength⟩ := parseBatch_accept hparse
  have hafter : ∀ j, n.toNat ≤ j → (s.acceptBatch n is).mem.entry j = s.mem.entry j :=
    fun j hj => s.acceptBatch_entry_of_ge n is (hlength.le.trans hj)
  refine ⟨(s.acceptBatch n is).edge, step_of_idle_accept s hrst hidle hvalid n is hparse, rfl, rfl,
    s.acceptBatch_cnt_toNat n is hcount, hlength, fun j hj => ?_, fun j hj => ?_, rfl, rfl, rfl, rfl, rfl, rfl⟩
  · exact s.acceptBatch_entry_of_lt n is (hj.trans_eq hlength.symm)
  · exact ⟨hafter j hj, State.readEntry_congr (hafter j hj) rfl⟩

/-- Settles O27: the two ISSUE cycles, the fetch answering the listed entry at the cursor. -/
theorem issueCycle : Obligations.IssueCycle := by
  intro s hrst hissue
  refine ⟨step_of_issue_done s hrst hissue, fun b hk hbound hentry => ?_⟩
  exact step_of_issue_start s hrst hissue hk b (s.fetch_of_entry b hbound hentry)

/-- Settles O33: the two ACK cycles, and the inversion of the step for the entry to ACK. -/
theorem ackEndsWithTxDone : Obligations.AckEndsWithTxDone := by
  refine ⟨fun s hrst hack => ⟨?_, rfl, rfl, step_of_ack_done s hrst hack, step_of_ack_wait s hrst hack⟩,
    fun s t hstep => step_ack_source hstep⟩
  exact decide_eq_true hack

end Sys2Proof

/-! PROOFS. The bytes of STOP, FORWARD and BACKWARD (30_encoding.md rule R74, 40_codec.md rule R104): the masks of the
opcode map read the decoder's fields. -/
namespace Sys2Proof

/-! ### The masks of the opcode map and the decoder's fields -/

/-- A byte is its bit 7 before the decoder's two fields. -/
theorem bitSeven_append_decodeInstr (b : Byte) :
    b.extractLsb' 7 1 ++ (decodeInstr b).1 ++ (decodeInstr b).2 = b := by
  have hfields : (decodeInstr b).1 ++ (decodeInstr b).2 = b.extractLsb' 0 7 :=
    BitVec.extractLsb'_append_extractLsb'_eq_extractLsb' rfl
  have hbyte : b.extractLsb' 7 1 ++ b.extractLsb' 0 7 = b.extractLsb' 0 8 :=
    BitVec.extractLsb'_append_extractLsb'_eq_extractLsb' rfl
  rw [BitVec.append_assoc, hfields]
  simpa using hbyte

/-- A mask without bit 7 masks each field on its own. -/
theorem and_encodeInstr (b : Byte) (opMask : BitVec 2) (argMask : Arg) :
    b &&& encodeInstr opMask argMask = encodeInstr ((decodeInstr b).1 &&& opMask) ((decodeInstr b).2 &&& argMask) := by
  calc b &&& encodeInstr opMask argMask
      = (b.extractLsb' 7 1 ++ (decodeInstr b).1 ++ (decodeInstr b).2) &&& (0#1 ++ opMask ++ argMask) := by
        rw [bitSeven_append_decodeInstr, encodeInstr]
    _ = encodeInstr ((decodeInstr b).1 &&& opMask) ((decodeInstr b).2 &&& argMask) := by
        rw [BitVec.and_append, BitVec.and_append, BitVec.and_zero, encodeInstr]

/-- The encoder does not identify two pairs, since the decoder reads them back. -/
theorem encodeInstr_inj {op op' : BitVec 2} {arg arg' : Arg} :
    encodeInstr op arg = encodeInstr op' arg' ↔ op = op' ∧ arg = arg' := by
  refine ⟨fun h => ?_, fun ⟨hop, harg⟩ => by rw [hop, harg]⟩
  have hfields := congrArg decodeInstr h
  rwa [decodeInstr_encodeInstr, decodeInstr_encodeInstr, Prod.mk.injEq] at hfields

/-- The mask `0x60` tests the opcode field alone. -/
theorem and_opcodeMask_eq_iff (b : Byte) (op : BitVec 2) :
    b &&& 0x60#8 = encodeInstr op 0#5 ↔ (decodeInstr b).1 = op := by
  have hmask : 0x60#8 = encodeInstr (BitVec.allOnes 2) 0#5 := by decide
  rw [hmask, and_encodeInstr, BitVec.and_allOnes, BitVec.and_zero, encodeInstr_inj, and_iff_left rfl]

/-- The mask `0x7F` tests both fields. -/
theorem and_fieldsMask_eq_iff (b : Byte) (op : BitVec 2) (arg : Arg) :
    b &&& 0x7F#8 = encodeInstr op arg ↔ (decodeInstr b).1 = op ∧ (decodeInstr b).2 = arg := by
  have hmask : 0x7F#8 = encodeInstr (BitVec.allOnes 2) (BitVec.allOnes 5) := by decide
  rw [hmask, and_encodeInstr, BitVec.and_allOnes, BitVec.and_allOnes, encodeInstr_inj]

/-! ### The class and the argument of an instruction -/

theorem OpClass.ofBits_eq_stopOrDetonate : ∀ op, OpClass.ofBits op = .stopOrDetonate ↔ op = 0b00#2 := by decide
theorem OpClass.ofBits_eq_forward : ∀ op, OpClass.ofBits op = .forward ↔ op = 0b01#2 := by decide
theorem OpClass.ofBits_eq_backward : ∀ op, OpClass.ofBits op = .backward ↔ op = 0b10#2 := by decide

theorem OpClass.instr_eq_stop (c : OpClass) (arg : Arg) : c.instr arg = .stop ↔ c = .stopOrDetonate ∧ arg = 0#5 := by
  cases c with
  | stopOrDetonate | turn => by_cases h : arg = 0#5 <;> simp [OpClass.instr, h]
  | forward | backward => simp [OpClass.instr]

theorem OpClass.instr_eq_forward (c : OpClass) (arg a : Arg) : c.instr arg = .forward a ↔ c = .forward ∧ a = arg := by
  cases c with
  | stopOrDetonate | turn => by_cases h : arg = 0#5 <;> simp [OpClass.instr, h]
  | forward | backward => simp [OpClass.instr, eq_comm]

theorem OpClass.instr_eq_backward (c : OpClass) (arg a : Arg) :
    c.instr arg = .backward a ↔ c = .backward ∧ a = arg := by
  cases c with
  | stopOrDetonate | turn => by_cases h : arg = 0#5 <;> simp [OpClass.instr, h]
  | forward | backward => simp [OpClass.instr, eq_comm]

/-! ### The bytes of an instruction -/

/-- STOP is opcode 0 with argument 0: the bytes `0x00` and `0x80`. -/
theorem classify_eq_stop_iff (b : Byte) : classify b = .stop ↔ b &&& 0x7F#8 = 0x00#8 := by
  calc classify b = .stop
      ↔ (decodeInstr b).1 = 0b00#2 ∧ (decodeInstr b).2 = 0#5 := by
        rw [classify, OpClass.instr_eq_stop, OpClass.ofBits_eq_stopOrDetonate]
    _ ↔ b &&& 0x7F#8 = 0x00#8 := (and_fieldsMask_eq_iff b 0b00#2 0#5).symm

theorem classify_eq_forward_iff (b : Byte) (a : Arg) :
    classify b = .forward a ↔ b &&& 0x60#8 = 0x20#8 ∧ a = b.extractLsb' 0 5 := by
  calc classify b = .forward a
      ↔ (decodeInstr b).1 = 0b01#2 ∧ a = (decodeInstr b).2 := by
        rw [classify, OpClass.instr_eq_forward, OpClass.ofBits_eq_forward]
    _ ↔ b &&& 0x60#8 = 0x20#8 ∧ a = b.extractLsb' 0 5 :=
        and_congr_left' (and_opcodeMask_eq_iff b 0b01#2).symm

theorem classify_eq_backward_iff (b : Byte) (a : Arg) :
    classify b = .backward a ↔ b &&& 0x60#8 = 0x40#8 ∧ a = b.extractLsb' 0 5 := by
  calc classify b = .backward a
      ↔ (decodeInstr b).1 = 0b10#2 ∧ a = (decodeInstr b).2 := by
        rw [classify, OpClass.instr_eq_backward, OpClass.ofBits_eq_backward]
    _ ↔ b &&& 0x60#8 = 0x40#8 ∧ a = b.extractLsb' 0 5 :=
        and_congr_left' (and_opcodeMask_eq_iff b 0b10#2).symm

end Sys2Proof

/-! PROOFS. Setup and Finish of STOP, FORWARD and BACKWARD (43_motion.md rules R182, R184 and R185). -/
namespace Sys2Proof.Machine

/-- The Finish of an instruction whose row of rule R180 toggles the heartbeat. -/
theorem exec_finish_toggling (i : Instr) (s : State) (htoggles : togglesHb i = true) (hwait : s.st = .wait)
    (hticks : s.ticks.toNat = holdLength i) :
    exec i s = .next (s.finish (finishLines i s.lines) (!s.hb)) := by
  rw [exec_finish i s hwait hticks, finishHb, htoggles, Bool.xor_true]

/-- A turn's Setup asserts its line whatever the lines were. -/
theorem or_turnLine_ne_lineNone : ∀ l : Lines, l ||| lineL ≠ lineNone ∧ l ||| lineR ≠ lineNone := by decide

/-- Every Setup but that of STOP asserts a line. -/
theorem setupLines_eq_lineNone_iff (i : Instr) (l : Lines) : setupLines i l = lineNone ↔ i = .stop := by
  cases i with
  | stop | detonate | forward | backward => simp [setupLines, lineNone, lineD, lineF, lineB]
  | turnLeft | turnRight => simp [setupLines, or_turnLine_ne_lineNone]

end Sys2Proof.Machine

namespace Sys2Proof
open Machine

/-! ### The statements -/

/-- Settles O15: the two fields of a STOP byte are 0, its hold is 0, and the other five Setups assert a line. -/
theorem stopClearsEveryLine : Obligations.StopClearsEveryLine := by
  refine ⟨classify_eq_stop_iff, exec_issue .stop, fun s hwait hticks => ?_, fun i s t hissue _ hexec hnone => ?_⟩
  · exact exec_finish_toggling .stop s rfl hwait (congrArg BitVec.toNat hticks)
  · rw [exec_issue i s hissue] at hexec
    cases hexec
    exact (setupLines_eq_lineNone_iff i s.lines).mp hnone

/-- Settles O17: the opcode field of a FORWARD byte, and the Setup, the Finish and the hold of its row. -/
theorem forwardHoldsForward : Obligations.ForwardHoldsForward :=
  ⟨classify_eq_forward_iff, fun a s => exec_issue (.forward a) s,
    fun a s => exec_finish_toggling (.forward a) s rfl, fun a s => exec_hold (.forward a) s⟩

/-- Settles O18: the opcode field of a BACKWARD byte, and the Setup, the Finish and the hold of its row. -/
theorem backwardHoldsBackward : Obligations.BackwardHoldsBackward :=
  ⟨classify_eq_backward_iff, fun a s => exec_issue (.backward a) s,
    fun a s => exec_finish_toggling (.backward a) s rfl, fun a s => exec_hold (.backward a) s⟩

end Sys2Proof

/-! PROOFS. Dropped packets (60_exceptions.md rule R211). -/
namespace Sys2Proof.Machine

/-! ### A cycle that only passes the clock edge -/

/-- The clock edge itself changes no register. -/
theorem State.sameRegisters_edge (s : State) : sameRegisters s s.edge :=
  ⟨s.edge_st.symm, s.edge_cnt.symm, s.edge_k.symm, s.edge_cur.symm, s.edge_ticks.symm, s.edge_mem.symm,
    s.edge_lines.symm, s.edge_hb.symm, s.edge_fault.symm, s.edge_faultCnt.symm⟩

/-- A transmit ends in ACK only (42_sequencer.md rule R158). -/
theorem State.transmission_of_ne_ack (s : State) (h : s.st ≠ .ack) : s.transmission = none :=
  if_neg fun ⟨_, hack, _⟩ => h hack

/-- The frame parser drops whatever the radio reports as malformed (41_framer.md rule R124). -/
theorem parseBatch_of_not_ok {ok : Bool} (h : ok = false) (buf : FrameBuf) :
    parseBatch ok buf = .drop .malformed :=
  if_pos h

end Sys2Proof.Machine

namespace Sys2Proof
open Machine

/-! ### The statement -/

/-- Settles O30: without a packet IDLE skips the cycle, and a malformed packet is dropped by the parser. Either way the
step is the clock edge alone. -/
theorem malformedPacketChangesNothing : Obligations.MalformedPacketChangesNothing := by
  intro s hrst hidle hpacket
  have hstep : step s = .next s.edge := by
    rcases hpacket with hnone | ⟨hvalid, hbad⟩
    · exact step_of_idle_skip s hrst hidle hnone
    · exact step_of_idle_drop s hrst hidle hvalid .malformed (parseBatch_of_not_ok hbad s.input.rxBuf)
  have hnotAck : s.st ≠ .ack := by simp [hidle]
  exact ⟨hstep, s.sameRegisters_edge, s.transmission_of_ne_ack hnotAck⟩

end Sys2Proof

/-! PROOFS. The framer and the way of a batch through it (41_framer.md rules R121 to R134, 40_codec.md rule R105). -/
namespace Sys2Proof.Machine

/-! ### The verdicts of the parsers -/

/-- A frame for another node is dropped before its count is read (41_framer.md rule R129). -/
theorem parseBatch_of_other_address {buf : FrameBuf} (h : buf[1] ≠ Config.nodeAddr) :
    parseBatch true buf = .drop .address := by
  rw [parseBatch, if_neg Bool.noConfusion, if_pos h]

/-- A count byte above MAX_BATCH is a bounds fault with that byte. -/
theorem parseBatch_of_count_above {buf : FrameBuf} (haddr : buf[1] = Config.nodeAddr)
    (hcount : Config.maxBatch < buf[2].toNat) : parseBatch true buf = .bounds buf[2] := by
  rw [parseBatch, if_neg Bool.noConfusion, if_neg (not_not.mpr haddr), if_pos hcount]

/-- A frame that passes the three checks is accepted with the bytes its count byte declares. -/
theorem parseBatch_of_count_le {buf : FrameBuf} (haddr : buf[1] = Config.nodeAddr)
    (hcount : buf[2].toNat ≤ Config.maxBatch) :
    parseBatch true buf = .accept buf[2] (frameInstrs buf buf[2].toNat) := by
  rw [parseBatch, if_neg Bool.noConfusion, if_neg (not_not.mpr haddr), if_neg (Nat.not_lt.mpr hcount)]

theorem parseAck_of_other_address {buf : FrameBuf} (h : buf[1] ≠ Config.nodeAddr) :
    parseAck true buf = .drop .address := by
  rw [parseAck, if_neg Bool.noConfusion, if_pos h]

theorem parseAck_of_address {buf : FrameBuf} (haddr : buf[1] = Config.nodeAddr) :
    parseAck true buf = .ack buf[2] := by
  rw [parseAck, if_neg Bool.noConfusion, if_neg (not_not.mpr haddr)]

/-! ### A buffer that begins with a frame -/

/-- What the parsers read of a buffer that begins with three given bytes. -/
theorem header_of_prefix {len addr count : Byte} {is : List Byte} {buf : FrameBuf}
    (h : [len, addr, count] ++ is <+: buf.toList) :
    buf[1] = addr ∧ buf[2] = count ∧ is <+: buf.toList.drop 3 := by
  obtain ⟨rest, hbuf⟩ := h
  have hdrop : buf.toList.drop 3 = is ++ rest := by simp [← hbuf]
  refine ⟨?_, ?_, hdrop ▸ List.prefix_append is rest⟩ <;> simp [← Vector.getElem_toList, ← hbuf]

/-- A list that the instruction bytes begin with is what the parser extracts for its length. -/
theorem frameInstrs_of_prefix {is : List Byte} {buf : FrameBuf} (h : is <+: buf.toList.drop 3) :
    frameInstrs buf is.length = is :=
  (List.prefix_iff_eq_take.mp h).symm

/-- Parsing a buffer that begins with a frame gives the framed batch back (41_framer.md rule R130). -/
theorem parseBatch_of_frameBatch {n : Nat} {is f : List Byte} {buf : FrameBuf} (hframe : frameBatch n is = .ok f)
    (hprefix : f <+: buf.toList) : parseBatch true buf = .accept (BitVec.ofNat 8 n) is := by
  obtain ⟨hcount, rfl, rfl⟩ := (frameBatch_ok_iff n is f).mp hframe
  obtain ⟨haddr, hn, his⟩ := header_of_prefix hprefix
  have hnat : (BitVec.ofNat 8 is.length).toNat = is.length := Nat.mod_eq_of_lt (lt_of_le_of_lt hcount (by decide))
  rw [parseBatch_of_count_le haddr (by rwa [hn, hnat]), hn, hnat, frameInstrs_of_prefix his]

/-! ### A padded frame -/

theorem padFrame_toList (f tail : List Byte) :
    (padFrame f tail).toList = (f ++ tail ++ List.replicate 53 0x00#8).take 53 := rfl

/-- A frame that fits the buffer is what the buffer begins with. -/
theorem prefix_padFrame {f : List Byte} (tail : List Byte) (h : f.length ≤ Config.frameBufLen) :
    f <+: (padFrame f tail).toList := by
  rw [padFrame_toList, List.prefix_take_iff, List.append_assoc]
  exact ⟨List.prefix_append _ _, h⟩

/-- Without a tail the rest of the buffer is 0x00. -/
theorem padFrame_nil_toList {f : List Byte} (h : f.length ≤ Config.frameBufLen) :
    (padFrame f []).toList = f ++ List.replicate (53 - f.length) 0x00#8 := by
  have hfits : f.take 53 = f := List.take_of_length_le h
  have hrest : min (53 - f.length) 53 = 53 - f.length := by omega
  rw [padFrame_toList, List.append_nil, List.take_append, hfits, List.take_replicate, hrest]

theorem frameBatch_length {n : Nat} {is f : List Byte} (h : frameBatch n is = .ok f) : f.length = n + 3 := by
  obtain ⟨-, rfl, rfl⟩ := (frameBatch_ok_iff n is f).mp h
  simp

/-- Every frame the framer builds fits the buffer, since it carries at most MAX_BATCH instructions. -/
theorem frameBatch_length_le {n : Nat} {is f : List Byte} (h : frameBatch n is = .ok f) :
    f.length ≤ Config.frameBufLen := by
  have hcount : n ≤ 50 := ((frameBatch_ok_iff n is f).mp h).1
  rw [frameBatch_length h, Config.frameBufLen]
  omega

/-- What the framer builds from a list of the declared length. -/
theorem frameBatch_of_length_eq {n : Nat} {is : List Byte} (hcount : n ≤ Config.maxBatch) (hlength : is.length = n) :
    frameBatch n is = .ok ([BitVec.ofNat 8 n + 2#8, Config.nodeAddr, BitVec.ofNat 8 n] ++ is) :=
  (frameBatch_ok_iff n is _).mpr ⟨hcount, hlength, by rw [BitVec.ofNat_add]⟩

end Sys2Proof.Machine

namespace Sys2Proof
open Machine

/-! ### The bytes of a batch -/

theorem encodeByte_toNat_lt (i : Instr) : (encodeByte i).toNat < 128 := by
  have hop : i.op.toNat < 4 := i.op.isLt
  have harg : i.arg.toNat < 32 := i.arg.isLt
  rw [encodeByte, encodeInstr_toNat]
  omega

theorem classify_encodeByte (i : Instr) (h : i.wellFormed = true) : classify (encodeByte i) = i := by
  cases i with
  | stop => exact Laws.classify_stop
  | detonate a => exact Laws.classify_detonate a (bne_iff_ne.mp h)
  | forward a => exact Laws.classify_forward a
  | backward a => exact Laws.classify_backward a
  | turnLeft => exact Laws.classify_turnLeft
  | turnRight a => exact Laws.classify_turnRight a (bne_iff_ne.mp h)

theorem decodeBatch_encodeBatch {is : List Instr} (h : is.all Instr.wellFormed = true) :
    decodeBatch (encodeBatch is) = is := by
  rw [decodeBatch, encodeBatch, List.map_map]
  calc is.map (classify ∘ encodeByte)
      = is.map id := List.map_congr_left fun i hi => classify_encodeByte i (List.all_eq_true.mp h i hi)
    _ = is := List.map_id is

/-! ### The statements -/

/-- Settles O14: the frame of the encoded bytes fits the buffer, so the parser gives those bytes back and the decoder
reads each as its instruction. -/
theorem framedBatchDecodesToItself : Obligations.FramedBatchDecodesToItself := by
  intro is tail hbatch
  obtain ⟨hcount, hwf⟩ := Bool.and_eq_true_iff.mp hbatch
  have hframe := frameBatch_of_length_eq (is := encodeBatch is) (of_decide_eq_true hcount) (List.length_map _)
  refine ⟨_, encodeBatch is, hframe, frameBatch_length hframe, fun b hb => ?_, ?_, decodeBatch_encodeBatch hwf⟩
  · obtain ⟨i, -, rfl⟩ := List.mem_map.mp hb
    exact encodeByte_toNat_lt i
  · exact parseBatch_of_frameBatch hframe (prefix_padFrame tail (frameBatch_length_le hframe))

/-- Settles O12: a buffer that begins with a frame parses to the framed batch. -/
theorem framingRoundTrip : Obligations.FramingRoundTrip :=
  fun _ _ _ _ _ _ hframe hprefix => parseBatch_of_frameBatch hframe hprefix

/-- Settles O9: the framer on lists, and the buffer of the ports as the frame of the entries used with 0x00 after it. -/
theorem batchFrameBytes : Obligations.BatchFrameBytes := by
  refine ⟨fun n is => ⟨frameBatch_error_of n is, frameBatch_of_length_eq⟩,
    fun n instr => ⟨fun hcount => ?_, fun hcount => ?_⟩⟩
  · rw [frameBatchPort, frameBatch_error_of _ _ (.inl hcount)]
  · have hused : (instr.toList.take n.toNat).length = n.toNat := by simp [hcount]
    have hframe := frameBatch_of_length_eq hcount hused
    refine ⟨_, _, frameBatchPort_of_ok n instr _ hframe, by bv_omega, ?_⟩
    rw [padFrame_nil_toList (frameBatch_length_le hframe), frameBatch_length hframe, Nat.add_sub_add_right 50 3,
      BitVec.ofNat_toNat, Config.nodeAddr]

/-- Settles O10: one verdict lemma per failing check, and the extracted bytes of a frame that passes them all. -/
theorem batchVerdictInOrder : Obligations.BatchVerdictInOrder := by
  refine fun ok buf => ⟨fun h => parseBatch_of_not_ok h buf, ?_⟩
  refine ⟨?_, ?_, ?_⟩ <;> rintro rfl
  · exact parseBatch_of_other_address
  · exact parseBatch_of_count_above
  · intro haddr hcount
    refine ⟨_, parseBatch_of_count_le haddr hcount, ?_, fun j hj => ?_⟩
    · rw [frameInstrs_length, min_eq_left hcount]
    · rw [frameInstrs_getElem?, if_pos hj]

/-- Settles O11: the parser reads its buffer at byte 1, byte 2 and the declared instruction bytes only. -/
theorem batchParserIgnoresLengthAndTail : Obligations.BatchParserIgnoresLengthAndTail := by
  intro ok buf buf' haddr hcount hinstrs
  have hframe : frameInstrs buf buf[2].toNat = frameInstrs buf' buf[2].toNat := by
    refine List.ext_getElem? fun j => ?_
    rw [frameInstrs_getElem?, frameInstrs_getElem?]
    exact ite_congr rfl (hinstrs j) fun _ => rfl
  rw [parseBatch, parseBatch, ← haddr, ← hcount, hframe]

/-- Settles O13: the ack parser by its checks; the frames of either kind by the header bytes of the buffer. -/
theorem ackFrames : Obligations.AckFrames := by
  refine ⟨rfl, fun ok buf => ⟨fun h => if_pos h, ?_, ?_⟩, fun buf hprefix => ?_, fun n is f buf hframe hprefix => ?_⟩
  · rintro rfl haddr
    exact parseAck_of_other_address haddr
  · rintro rfl
    exact parseAck_of_address
  · obtain ⟨haddr, hcode, -⟩ := header_of_prefix (is := []) hprefix
    rw [parseBatch_of_count_le haddr (by rw [hcode]; decide), hcode]
    rfl
  · obtain ⟨-, -, rfl⟩ := (frameBatch_ok_iff n is f).mp hframe
    obtain ⟨haddr, hn, -⟩ := header_of_prefix hprefix
    rw [parseAck_of_address haddr, hn]

/-- Settles O7, one instruction at a time. -/
theorem everyInstructionRoundTrips : Obligations.EveryInstructionRoundTrips := fun i hwf =>
  Laws.decode_encode_of_classify i (classify_encodeByte i hwf)

end Sys2Proof

/-! PROOFS. The codec's domain and the opcode map (30_encoding.md rule R74, 40_codec.md rules R100 to R106). -/
namespace Sys2Proof

/-! ### The encoder -/

/-- The encoder acts on each field on its own, so it keeps unions. -/
theorem encodeInstr_or (op op' : BitVec 2) (arg arg' : Arg) :
    encodeInstr op arg ||| encodeInstr op' arg' = encodeInstr (op ||| op') (arg ||| arg') := by
  rw [encodeInstr, encodeInstr, BitVec.or_append, BitVec.or_append, BitVec.or_zero, encodeInstr]

theorem encodeInstr_opcode_only : ∀ op : BitVec 2, encodeInstr op 0#5 = op.setWidth 8 <<< 5 := by decide

theorem encodeInstr_arg_only : ∀ arg : Arg, encodeInstr 0#2 arg = arg.setWidth 8 := by decide

/-- A byte within the encoder's opcode mask is its opcode field. -/
theorem eq_encodeInstr_of_opcode_domain :
    ∀ opv : Byte, opv &&& 0x9F#8 = 0#8 → opv = encodeInstr ((opv >>> 5).setWidth 2) 0#5 := by decide

/-- Encode after decode clears bit 7 (40_codec.md rule R106). -/
theorem encodeInstr_decodeInstr (b : Byte) : encodeInstr (decodeInstr b).1 (decodeInstr b).2 = b &&& 0x7F#8 :=
  ((and_fieldsMask_eq_iff b _ _).mpr ⟨rfl, rfl⟩).symm

theorem and_fieldsMask_toNat (b : Byte) : (b &&& 0x7F#8).toNat = b.toNat % 128 :=
  Nat.and_two_pow_sub_one_eq_mod b.toNat 7

theorem and_fieldsMask_eq_self_iff (b : Byte) : b &&& 0x7F#8 = b ↔ b.toNat < 128 := by
  rw [← BitVec.toNat_inj, and_fieldsMask_toNat]
  omega

/-! ### The masks of the opcode map -/

theorem and_opcodeMask (b : Byte) : b &&& 0x60#8 = encodeInstr (decodeInstr b).1 0#5 :=
  (and_opcodeMask_eq_iff b _).mpr rfl

/-- The mask `0x1F` reads the argument field alone. -/
theorem and_argMask (b : Byte) : b &&& 0x1F#8 = encodeInstr 0#2 (decodeInstr b).2 := by
  have hmask : 0x1F#8 = encodeInstr 0#2 (BitVec.allOnes 5) := by decide
  rw [hmask, and_encodeInstr, BitVec.and_zero, BitVec.and_allOnes]

theorem and_argMask_eq_zero_iff (b : Byte) : b &&& 0x1F#8 = 0#8 ↔ (decodeInstr b).2 = 0#5 := by
  have hzero : 0#8 = encodeInstr 0#2 0#5 := by decide
  rw [and_argMask, hzero, encodeInstr_inj, and_iff_right rfl]

/-- A row with the mask `0x7F` selects one opcode and one argument. -/
theorem OpcodeRow.selects_of_fieldsMask (m : Mnemonic) (op : BitVec 2) (arg : Arg) (b : Byte) :
    OpcodeRow.selects ⟨m, encodeInstr op arg, 0x7F#8, false⟩ b = true ↔
      (decodeInstr b).1 = op ∧ (decodeInstr b).2 = arg := by
  simp [OpcodeRow.selects, and_fieldsMask_eq_iff]

/-- A row with the mask `0x60` selects one opcode, with any argument or with any but 0. -/
theorem OpcodeRow.selects_of_opcodeMask (m : Mnemonic) (op : BitVec 2) (nonzero : Bool) (b : Byte) :
    OpcodeRow.selects ⟨m, encodeInstr op 0#5, 0x60#8, nonzero⟩ b = true ↔
      (decodeInstr b).1 = op ∧ (nonzero = true → (decodeInstr b).2 ≠ 0#5) := by
  simp [OpcodeRow.selects, and_opcodeMask_eq_iff, and_argMask_eq_zero_iff, imp_iff_not_or]

/-- The opcode map with the match bits of each row written as the encoder's byte. -/
theorem opcodeTable_eq : opcodeTable =
    [⟨.STOP, encodeInstr 0#2 0#5, 0x7F#8, false⟩, ⟨.DETONATE, encodeInstr 0#2 0#5, 0x60#8, true⟩,
      ⟨.FORWARD, encodeInstr 1#2 0#5, 0x60#8, false⟩, ⟨.BACKWARD, encodeInstr 2#2 0#5, 0x60#8, false⟩,
      ⟨.TURN_LEFT, encodeInstr 3#2 0#5, 0x7F#8, false⟩, ⟨.TURN_RIGHT, encodeInstr 3#2 0#5, 0x60#8, true⟩] := by
  decide

/-! ### The statements -/

/-- Settles O2: the encoder's value bounds its image, decoding finds a preimage below 128, and the wide form joins the
two fields. -/
theorem encoderValueAndDomain : Obligations.EncoderValueAndDomain := by
  refine ⟨encodeInstr_toNat, fun b => ⟨?_, fun hb => ?_⟩, fun opv arg => ⟨fun h => if_pos h, fun hop harg => ?_⟩⟩
  · rintro ⟨op, arg, rfl⟩
    rw [encodeInstr_toNat]
    omega
  · exact ⟨_, _, (encodeInstr_decodeInstr b).trans ((and_fieldsMask_eq_self_iff b).mpr hb)⟩
  · have hargField : arg = encodeInstr 0#2 (arg.setWidth 5) := by
      rw [encodeInstr_arg_only]
      bv_omega
    refine ⟨encodeInstrV_of_domain hop harg, ?_⟩
    conv_lhs => rw [eq_encodeInstr_of_opcode_domain opv hop, hargField]
    rw [encodeInstr_or, BitVec.or_zero, BitVec.zero_or]

/-- Settles O4: every mask of the codec reads the decoder's fields, and none reads bit 7. -/
theorem encodeAfterDecodeClearsBitSeven : Obligations.EncodeAfterDecodeClearsBitSeven := by
  refine ⟨encodeInstr_decodeInstr, fun b => ?_, decodeInstr_xor_bit_seven, fun b => ⟨rfl, ?_⟩⟩
  · rw [encodeInstr_decodeInstr, and_fieldsMask_eq_self_iff]
  · rw [decodeInstrV, and_opcodeMask, and_argMask, encodeInstr_opcode_only, encodeInstr_arg_only]

/-- Settles O5: a row selects by the decoded fields, which the classification reads too; on numbers the fields are
`b / 32 % 4` and `b % 32`. -/
theorem oneOpcodeRowPerByte : Obligations.OneOpcodeRowPerByte := by
  refine ⟨fun b => ?_, ?_, by decide⟩
  · simp only [opcodeTable_eq, List.filter_cons, OpcodeRow.selects_of_fieldsMask, OpcodeRow.selects_of_opcodeMask,
      classify, List.filter_nil]
    generalize (decodeInstr b).1 = op, (decodeInstr b).2 = arg
    revert op arg
    decide
  · simp only [opcodeTable_eq, List.forall_mem_cons, OpcodeRow.selects_of_fieldsMask, OpcodeRow.selects_of_opcodeMask,
      ne_eq, ← BitVec.toNat_inj, decodeInstr_op_toNat, decodeInstr_arg_toNat, BitVec.toNat_ofNat, forall_const,
      Bool.false_eq_true, false_implies, and_true]
    refine ⟨fun b => ?_, fun b => ?_, fun b => ?_, fun b => ?_, fun b => ?_, fun b => ?_, List.forall_mem_nil _⟩
    all_goals omega

/-- Settles O6 by decoding the twelve words. -/
theorem writtenOutWordsDecode : Obligations.WrittenOutWordsDecode := by
  unfold Obligations.WrittenOutWordsDecode
  decide

end Sys2Proof

/-! PROOFS. The bytes of DETONATE, TURN_LEFT and TURN_RIGHT (30_encoding.md rule R74, 40_codec.md rule R104). -/
namespace Sys2Proof

theorem OpClass.ofBits_eq_turn : ∀ op, OpClass.ofBits op = .turn ↔ op = 0b11#2 := by decide

theorem OpClass.instr_eq_detonate (c : OpClass) (arg a : Arg) :
    c.instr arg = .detonate a ↔ c = .stopOrDetonate ∧ arg ≠ 0#5 ∧ a = arg := by
  cases c with
  | stopOrDetonate | turn => by_cases h : arg = 0#5 <;> simp [OpClass.instr, h, eq_comm (a := arg) (b := a)]
  | forward | backward => simp [OpClass.instr]

theorem OpClass.instr_eq_turnLeft (c : OpClass) (arg : Arg) : c.instr arg = .turnLeft ↔ c = .turn ∧ arg = 0#5 := by
  cases c with
  | stopOrDetonate | turn => by_cases h : arg = 0#5 <;> simp [OpClass.instr, h]
  | forward | backward => simp [OpClass.instr]

theorem OpClass.instr_eq_turnRight (c : OpClass) (arg a : Arg) :
    c.instr arg = .turnRight a ↔ c = .turn ∧ arg ≠ 0#5 ∧ a = arg := by
  cases c with
  | stopOrDetonate | turn => by_cases h : arg = 0#5 <;> simp [OpClass.instr, h, eq_comm (a := arg) (b := a)]
  | forward | backward => simp [OpClass.instr]

theorem classify_eq_detonate_iff (b : Byte) (a : Arg) :
    classify b = .detonate a ↔ b &&& 0x60#8 = 0x00#8 ∧ b.extractLsb' 0 5 ≠ 0#5 ∧ a = b.extractLsb' 0 5 := by
  calc classify b = .detonate a
      ↔ (decodeInstr b).1 = 0b00#2 ∧ (decodeInstr b).2 ≠ 0#5 ∧ a = (decodeInstr b).2 := by
        rw [classify, OpClass.instr_eq_detonate, OpClass.ofBits_eq_stopOrDetonate]
    _ ↔ _ := and_congr_left' (and_opcodeMask_eq_iff b 0b00#2).symm

/-- TURN_LEFT is opcode 3 with argument 0: the bytes `0x60` and `0xE0`. -/
theorem classify_eq_turnLeft_iff (b : Byte) : classify b = .turnLeft ↔ b &&& 0x7F#8 = 0x60#8 := by
  calc classify b = .turnLeft
      ↔ (decodeInstr b).1 = 0b11#2 ∧ (decodeInstr b).2 = 0#5 := by
        rw [classify, OpClass.instr_eq_turnLeft, OpClass.ofBits_eq_turn]
    _ ↔ b &&& 0x7F#8 = 0x60#8 := (and_fieldsMask_eq_iff b 0b11#2 0#5).symm

theorem classify_eq_turnRight_iff (b : Byte) (a : Arg) :
    classify b = .turnRight a ↔ b &&& 0x60#8 = 0x60#8 ∧ b.extractLsb' 0 5 ≠ 0#5 ∧ a = b.extractLsb' 0 5 := by
  calc classify b = .turnRight a
      ↔ (decodeInstr b).1 = 0b11#2 ∧ (decodeInstr b).2 ≠ 0#5 ∧ a = (decodeInstr b).2 := by
        rw [classify, OpClass.instr_eq_turnRight, OpClass.ofBits_eq_turn]
    _ ↔ _ := and_congr_left' (and_opcodeMask_eq_iff b 0b11#2).symm

end Sys2Proof

/-! PROOFS. The rows of the summary table (43_motion.md rule R180) and the frame of every instruction. -/
namespace Sys2Proof.Machine

/-! ### The heartbeat -/

theorem togglesHb_eq_true_iff (i : Instr) :
    togglesHb i = true ↔ i = .stop ∨ (∃ a, i = .detonate a) ∨ (∃ a, i = .forward a) ∨ ∃ a, i = .backward a := by
  cases i <;> simp [togglesHb]

theorem togglesHb_eq_true_iff_not_turn (i : Instr) :
    togglesHb i = true ↔ i ≠ .turnLeft ∧ ∀ a, i ≠ .turnRight a := by
  cases i <;> simp [togglesHb]

theorem finishHb_ne_iff (i : Instr) (hb : Bool) : finishHb i hb ≠ hb ↔ togglesHb i = true := by
  cases h : togglesHb i <;> simp [finishHb, h]

/-- The Finish of an instruction whose row keeps the heartbeat. -/
theorem exec_finish_keeping (i : Instr) (s : State) (hkeeps : togglesHb i = false) (hwait : s.st = .wait)
    (hticks : s.ticks.toNat = holdLength i) :
    exec i s = .next (s.finish (finishLines i s.lines) s.hb) := by
  rw [exec_finish i s hwait hticks, finishHb, hkeeps, Bool.xor_false]

/-! ### The Detonate line -/

/-- A turn's Setup keeps the line D. -/
theorem turnLines_getLsbD_four : ∀ l : Lines,
    ((l &&& ~~~lineLR) ||| lineL).getLsbD 4 = l.getLsbD 4 ∧ ((l &&& ~~~lineLR) ||| lineR).getLsbD 4 = l.getLsbD 4 := by
  decide

/-- Only the Setups of STOP, FORWARD and BACKWARD clear D. -/
theorem setupLines_clears_detonate {i : Instr} {l : Lines} (hset : l.getLsbD 4 = true)
    (hclear : (setupLines i l).getLsbD 4 = false) : i = .stop ∨ (∃ a, i = .forward a) ∨ ∃ a, i = .backward a := by
  cases i with
  | stop | forward | backward => simp
  | detonate => exact absurd hclear (show lineD.getLsbD 4 ≠ false by decide)
  | turnLeft => cases hset.symm.trans ((turnLines_getLsbD_four l).1.symm.trans hclear)
  | turnRight => cases hset.symm.trans ((turnLines_getLsbD_four l).2.symm.trans hclear)

/-- The masks of the Finishes keep D. -/
theorem finishMask_getLsbD_four : ∀ l : Lines, (l &&& ~~~lineF).getLsbD 4 = l.getLsbD 4 ∧
    (l &&& ~~~lineB).getLsbD 4 = l.getLsbD 4 ∧ (l &&& ~~~lineLR).getLsbD 4 = l.getLsbD 4 := by
  decide

theorem finishLines_getLsbD_four (i : Instr) (l : Lines) : (finishLines i l).getLsbD 4 = l.getLsbD 4 := by
  obtain ⟨hforward, hbackward, hturn⟩ := finishMask_getLsbD_four l
  cases i with
  | stop | detonate => rfl
  | forward => exact hforward
  | backward => exact hbackward
  | turnLeft | turnRight => exact hturn

/-! ### The default arm -/

/-- No byte reaches the default arm (30_encoding.md rule R80): its masked opcode names the decoded class. -/
theorem classifyV_decodeInstrV (b : Byte) : classifyV (decodeInstrV b).1 (decodeInstr b).2 = some (classify b) := by
  have hclass : ∀ op arg, classifyV (encodeInstr op 0#5) arg = some ((OpClass.ofBits op).instr arg) := by decide
  rw [decodeInstrV, and_opcodeMask, hclass, classify]

theorem execV_of_classifyV {opv : Byte} {arg : Arg} {i : Instr} (h : classifyV opv arg = some i) (s : State) :
    execV opv arg s = exec i s := by
  simp only [execV, setupLinesV, holdLengthV, finishLinesV, finishHbV, h, exec_eq_instrCycle]

theorem classifyV_of_unrecognised {opv : Byte} (h : opv ∉ [0x00#8, 0x20#8, 0x40#8, 0x60#8]) (arg : Arg) :
    classifyV opv arg = none := by
  simp only [List.mem_cons, List.not_mem_nil, or_false, not_or] at h
  obtain ⟨hstop, hforward, hbackward, hturn⟩ := h
  rw [classifyV, if_neg hstop, if_neg hforward, if_neg hbackward, if_neg hturn]

/-- The default arm is the cycle of a safety stop. -/
theorem execV_of_unrecognised {opv : Byte} {arg : Arg} (h : classifyV opv arg = none) (s : State) :
    execV opv arg s = instrCycle lineNone 0#16 s.lines s.hb s := by
  simp only [execV, setupLinesV, holdLengthV, finishLinesV, finishHbV, h]

end Sys2Proof.Machine

namespace Sys2Proof
open Machine

/-! ### The statements -/

/-- Settles O16: D is cleared by no Finish and no hold, and of the Setups by those of STOP, FORWARD and BACKWARD. -/
theorem detonateAssertsOnlyDetonate : Obligations.DetonateAssertsOnlyDetonate := by
  refine ⟨classify_eq_detonate_iff, fun a => exec_issue (.detonate a), fun a s hwait hticks => ?_,
    fun i s t hset hexec hclear => ?_⟩
  · exact exec_finish_toggling (.detonate a) s rfl hwait (congrArg BitVec.toNat hticks)
  · rcases exec_next_cases hexec with ⟨hissue, rfl⟩ | ⟨-, -, rfl⟩ | ⟨-, -, rfl⟩
    · exact ⟨hissue, setupLines_clears_detonate hset hclear⟩
    · cases hset.symm.trans ((finishLines_getLsbD_four i s.lines).symm.trans hclear)
    · cases hset.symm.trans ((congrArg (BitVec.getLsbD · 4) s.hold_lines).symm.trans hclear)

/-- Settles O19: both fields of a TURN_LEFT byte, and the Setup, the Finish and the hold of its row. -/
theorem turnLeftHoldsLeft : Obligations.TurnLeftHoldsLeft :=
  ⟨classify_eq_turnLeft_iff, exec_issue .turnLeft, fun s => exec_finish_keeping .turnLeft s rfl,
    exec_hold .turnLeft⟩

/-- Settles O20: both fields of a TURN_RIGHT byte, and the Setup, the Finish and the hold of its row. -/
theorem turnRightHoldsRight : Obligations.TurnRightHoldsRight :=
  ⟨classify_eq_turnRight_iff, fun a => exec_issue (.turnRight a), fun a s => exec_finish_keeping (.turnRight a) s rfl,
    fun a => exec_hold (.turnRight a)⟩

/-- Settles O21: the three things a meaning can do, each of which writes only the registers named. -/
theorem instructionFrame : Obligations.InstructionFrame := by
  intro i s t hexec
  rcases exec_next_cases hexec with ⟨hissue, rfl⟩ | ⟨hwait, -, rfl⟩ | ⟨hwait, -, rfl⟩
  · refine ⟨rfl, rfl, rfl, rfl, rfl, rfl, rfl, fun _ => rfl, fun _ => rfl, ?_, ?_, ?_⟩ <;> simp [hissue]
  · refine ⟨rfl, rfl, rfl, rfl, rfl, rfl, rfl, fun _ => rfl, fun _ => rfl, ?_, fun htoggled => ?_, ?_⟩
    · simp [hwait]
    · exact ⟨hwait, rfl, (togglesHb_eq_true_iff_not_turn i).mp ((finishHb_ne_iff i s.hb).mp htoggled)⟩
    · simp [hwait]
  · have hmem : ∀ a, s.hold.mem.entry a = s.mem.entry a := fun a => by rw [s.hold_mem]
    refine ⟨s.hold_cnt, s.hold_cur, s.hold_fault, s.hold_faultCnt, s.hold_inputs, s.hold_cycle, s.hold_epoch,
      fun a => State.readEntry_congr (hmem a) s.hold_epoch, hmem, ?_, ?_, ?_⟩ <;> simp [hwait]

/-- Settles O22: every byte's masked opcode is recognised, and outside the four values the cycle is a safety stop's. -/
theorem defaultArmIsUnreachedSafetyStop : Obligations.DefaultArmIsUnreachedSafetyStop := by
  refine ⟨fun b => execV_of_classifyV (classifyV_decodeInstrV b), fun opv arg s hopv => ?_⟩
  rw [execV_of_unrecognised (classifyV_of_unrecognised hopv arg) s, instrCycle]
  refine ⟨fun hissue => ?_, fun hwait hticks => ?_⟩
  · rw [hissue]; rfl
  · rw [hwait, hticks]; rfl

/-- Settles O23: no instruction executes in the three other sequencer states. -/
theorem nothingExecutesOutsideIssueAndWait : Obligations.NothingExecutesOutsideIssueAndWait := by
  rintro i s (h | h | h) <;> exact exec_not_executing i s (by simp [h]) (by simp [h])

/-- Settles O24: below 31 the argument does not wrap, and a scaled hold is 500 for each unit of it. -/
theorem holdMonotonicity : Obligations.HoldMonotonicity := by
  refine ⟨fun a ha => ?_, fun _ _ => ⟨rfl, rfl⟩, rfl, fun _ => rfl⟩
  have hsucc : (a + 1#5).toNat = a.toNat + 1 := by bv_omega
  simp only [holdLength, hsucc, Config.distTime]
  omega

end Sys2Proof

/-! PROOFS. Single clock cycles: WAIT, dropped and refused packets, reset, and the inputs a cycle reads (42_sequencer.md
rules R150 to R160). -/
namespace Sys2Proof.Machine

/-! ### ISSUE and WAIT run the decoded instruction -/

/-- The decoder reads a single byte as its classification and leaves nothing. -/
theorem decode_singleton_eq_ok {b : Byte} {i : Instr} (h : decode [b] = .ok (i, [])) : classify b = i := by
  cases h
  rfl

theorem State.fetch_of_lt {s : State} (hk : s.k.toNat < Config.maxBatch) : s.fetch = some (s.readEntry s.k.toNat) :=
  if_pos hk

/-- A cycle of ISSUE that fetches `b` is the decoded instruction's, with `cur` latched. -/
theorem step_of_issue_fetch {s : State} {b : Byte} (hrst : s.input.rst = false) (hissue : s.st = .issue)
    (hk : s.k ≠ s.cnt) (hfetch : s.fetch = some b) :
    step s = mapNext State.edge (exec (classify b) (s.latch b)) := by
  rw [step_of_issue_start s hrst hissue hk b hfetch, exec_issue (classify b) (s.latch b) hissue]
  rfl

/-- A cycle of WAIT is the one of the instruction `cur` decodes to. -/
theorem step_of_wait {s : State} (hrst : s.input.rst = false) (hwait : s.st = .wait) :
    step s = mapNext State.edge (exec (classify s.cur) s) := by
  by_cases hticks : s.ticks.toNat = holdLength (classify s.cur)
  · rw [step_of_wait_finish s hrst hwait hticks, exec_finish _ s hwait hticks, mapNext_next]
  · rw [step_of_wait_hold s hrst hwait hticks, exec_hold _ s hwait hticks, mapNext_next]

theorem State.hold_of_tick {s : State} (h : s.input.tickEn = true) : s.hold = { s with ticks := s.ticks + 1#16 } :=
  if_pos h

theorem State.hold_of_no_tick {s : State} (h : s.input.tickEn = false) : s.hold = s :=
  if_neg (by simp [h])

theorem State.withFetchWord_byte (s : State) (b : Byte) : s.withFetchWord 8 b.toNat = s.loadOne b := by
  rw [State.withFetchWord, Nat.mod_eq_of_lt b.isLt, BitVec.ofNat_toNat, BitVec.setWidth_eq]

/-! ### Refused packets -/

theorem parseBatch_drop_of_other_address {buf : FrameBuf} (ok : Bool) (h : buf[1] ≠ Config.nodeAddr) :
    ∃ r, parseBatch ok buf = .drop r := by
  cases ok with
  | false => exact ⟨_, parseBatch_of_not_ok rfl buf⟩
  | true => exact ⟨_, parseBatch_of_other_address h⟩

/-- A dropped packet only passes the clock edge and sends nothing (60_exceptions.md rules R211 and R212). -/
theorem dropped_packet_changes_nothing {s : State} {r : DropReason} (hrst : s.input.rst = false) (hidle : s.st = .idle)
    (hvalid : s.input.rxValid = true) (hdrop : parseBatch s.input.rxOk s.input.rxBuf = .drop r) :
    step s = .next s.edge ∧ sameRegisters s s.edge ∧ s.transmission = none :=
  ⟨step_of_idle_drop s hrst hidle hvalid r hdrop, s.sameRegisters_edge, s.transmission_of_ne_ack (by simp [hidle])⟩

/-! ### The inputs a cycle reads -/

/-- `s` with other samples. -/
def State.withInputs (s : State) (xs : List Input) : State := { s with inputs := xs }

/-- The sample `y` has what a cycle of `s` reads of the sample `x`: `rst` in every state, the packet in IDLE, `tick_en`
before the end of a hold, `tx_done` in ACK. -/
structure State.ReadsAlike (s : State) (x y : Input) : Prop where
  rst : y.rst = x.rst
  packet : s.st = .idle → y.rxValid = x.rxValid ∧ y.rxOk = x.rxOk ∧ y.rxBuf = x.rxBuf
  tick : s.st = .wait → s.ticks.toNat ≠ holdLength (classify s.cur) → y.tickEn = x.tickEn
  txDone : s.st = .ack → y.txDone = x.txDone

/-- No cycle without reset consumes a sample before its edge. -/
theorem CycleCase.inputs_eq {s u : State} (h : CycleCase s u) : u.inputs = s.inputs := by
  cases h with
  | waitHold => exact s.hold_inputs
  | _ => rfl

theorem State.hold_withInputs {s : State} {y : Input} (rest : List Input) (h : y.tickEn = s.input.tickEn) :
    (s.withInputs (y :: rest)).hold = s.hold.withInputs (y :: rest) := by
  cases hy : y.tickEn with
  | true => rw [State.hold_of_tick (by exact hy), State.hold_of_tick (h ▸ hy)]; rfl
  | false => rw [State.hold_of_no_tick (by exact hy), State.hold_of_no_tick (h ▸ hy)]

/-- With a sample that has all a cycle reads, the cycle falls under the same case. -/
theorem CycleCase.withInputs {s u : State} {y : Input} (rest : List Input) (hy : s.ReadsAlike s.input y)
    (h : CycleCase s u) : CycleCase (s.withInputs (y :: rest)) (u.withInputs (y :: rest)) := by
  have hpacket (hidle : s.st = .idle) (hvalid : s.input.rxValid = true) :
      y.rxValid = true ∧ parseBatch y.rxOk y.rxBuf = parseBatch s.input.rxOk s.input.rxBuf := by
    obtain ⟨hv, hok, hbuf⟩ := hy.packet hidle
    exact ⟨hv.trans hvalid, by rw [hok, hbuf]⟩
  cases h with
  | idleSkip hidle hv => exact .idleSkip hidle ((hy.packet hidle).1.trans hv)
  | idleDrop r hidle hv hp =>
    obtain ⟨hv', hp'⟩ := hpacket hidle hv
    exact .idleDrop r hidle hv' (hp'.trans hp)
  | idleBounds n hidle hv hp =>
    obtain ⟨hv', hp'⟩ := hpacket hidle hv
    exact .idleBounds n hidle hv' (hp'.trans hp)
  | idleAccept n is hidle hv hp =>
    obtain ⟨hv', hp'⟩ := hpacket hidle hv
    exact .idleAccept n is hidle hv' (hp'.trans hp)
  | issueDone hissue hk => exact .issueDone hissue hk
  | issueStart b hissue hk hfetch => exact .issueStart b hissue hk hfetch
  | waitFinish hwait hticks => exact .waitFinish hwait hticks
  | waitHold hwait hticks =>
    rw [← State.hold_withInputs rest (hy.tick hwait hticks)]
    exact .waitHold hwait hticks
  | ackDone hack hd => exact .ackDone hack ((hy.txDone hack).trans hd)
  | ackWait hack hd => exact .ackWait hack ((hy.txDone hack).trans hd)
  | stopped hfault => exact .stopped hfault

/-- The step reads of the current sample what `ReadsAlike` lists and nothing else. -/
theorem step_of_readsAlike {s : State} {x y : Input} {rest : List Input} (hinputs : s.inputs = x :: rest)
    (hy : s.ReadsAlike x y) : step (s.withInputs (y :: rest)) = step s := by
  obtain rfl : s.input = x := s.input_cons x rest hinputs
  have hsame : (s.withInputs (y :: rest)).input.rst = s.input.rst := hy.rst
  cases hrst : s.input.rst with
  | true =>
    rw [step_of_reset s hrst, step_of_reset _ (hsame.trans hrst)]
    simp [State.edge, State.applyReset, State.withInputs, hinputs]
  | false =>
    have hrst' := hsame.trans hrst
    rcases cycle_cases s with ⟨u, hu⟩ | ⟨hissue, hk, hfetch⟩
    · rw [hu.step_eq hrst, (hu.withInputs rest hy).step_eq hrst']
      simp [State.edge, State.withInputs, hu.inputs_eq, hinputs]
    · rw [step_of_no_entry s hrst hissue hk hfetch]
      exact step_of_no_entry _ hrst' hissue hk hfetch

end Sys2Proof.Machine

namespace Sys2Proof
open Machine

/-! ### The statements -/

/-- Settles O25: an entry below 50 is fetched, and the decoded byte is its classification. -/
theorem stepRunsTheDecodedInstruction : Obligations.StepRunsTheDecodedInstruction := by
  refine fun s i hrst => ⟨fun hissue hk hbound hdecode => ?_, fun hwait hdecode => ?_⟩
  · rw [← decode_singleton_eq_ok hdecode]
    exact step_of_issue_fetch hrst hissue hk (State.fetch_of_lt hbound)
  · rw [← decode_singleton_eq_ok hdecode]
    exact step_of_wait hrst hwait

/-- Settles O26: the placed byte is entry 0, at the cursor, and the quiet sample placed with it has no reset. -/
theorem stepStartsThePlacedWord : Obligations.StepStartsThePlacedWord := by
  intro s b
  have hentry : (s.loadOne b).mem.entry 0 = some b := by rw [State.loadOne_mem, Memory.entry_write, if_pos rfl]
  have hfetch : (s.loadOne b).fetch = some b := State.fetch_of_entry _ b (show 0 < 50 by decide) hentry
  rw [State.withFetchWord_byte]
  exact ⟨_, step_of_issue_start (s.loadOne b) rfl rfl (by simp) b hfetch, rfl, rfl, rfl, rfl, rfl, rfl, rfl, rfl⟩

/-- Settles O28: the Finish cycle, and the hold cycle with and without a tick. -/
theorem waitCycle : Obligations.WaitCycle := by
  refine fun s hrst hwait => ⟨step_of_wait_finish s hrst hwait, fun hticks htick => ?_, fun hticks htick => ?_⟩
  · rw [step_of_wait_hold s hrst hwait hticks, State.hold_of_tick htick]
  · rw [step_of_wait_hold s hrst hwait hticks, State.hold_of_no_tick htick]

/-- Settles O31: a packet for another address is dropped, received whole or not. -/
theorem misaddressedPacketChangesNothing : Obligations.MisaddressedPacketChangesNothing := by
  intro s hrst hidle hvalid haddr
  obtain ⟨r, hdrop⟩ := parseBatch_drop_of_other_address s.input.rxOk haddr
  exact dropped_packet_changes_nothing hrst hidle hvalid hdrop

/-- Settles O32: the verdict is the bounds fault with the count byte. -/
theorem boundsFaultEntry : Obligations.BoundsFaultEntry := by
  intro s hrst hidle hvalid hok haddr hcount
  have hbounds : parseBatch s.input.rxOk s.input.rxBuf = .bounds s.input.rxBuf[2] := by
    rw [hok]
    exact parseBatch_of_count_above haddr hcount
  exact step_of_idle_bounds s hrst hidle hvalid _ hbounds

/-- Settles O34: the end of a transmit is read off its definition, and no cycle reads `tx_ok`. -/
theorem transmissionEndsInAck : Obligations.TransmissionEndsInAck := by
  refine ⟨fun s hrst hack hdone => ⟨if_pos ⟨hrst, hack, hdone⟩, _, step_of_ack_done s hrst hack hdone, rfl⟩,
    fun s hsent => ?_, fun s x rest ok hinputs => ?_⟩
  · by_contra hnot
    exact hsent (if_neg hnot)
  · exact step_of_readsAlike hinputs ⟨rfl, fun _ => ⟨rfl, rfl, rfl⟩, fun _ _ => rfl, fun _ => rfl⟩

/-- Settles O35: the step under reset is the reset values and the clock edge. -/
theorem resetWinsInEveryState : Obligations.ResetWinsInEveryState :=
  fun s hrst => ⟨_, step_of_reset s hrst, rfl, rfl, rfl, rfl, rfl, rfl, rfl, rfl, rfl, fun _ => rfl⟩

/-- Settles O36, by the reset values of the registers. -/
theorem outputsAfterReset : Obligations.OutputsAfterReset :=
  ⟨rfl, rfl, rfl, rfl, rfl, rfl⟩

/-- Settles O37, port by port. -/
theorem outputsOfTheRegisters : Obligations.OutputsOfTheRegisters :=
  fun _ => ⟨rfl, rfl, rfl, decide_eq_true_iff, decide_eq_true_iff, rfl, rfl⟩

/-- Settles O38: outside IDLE no cycle reads the packet ports. -/
theorem packetWhileBusyIsNotTaken : Obligations.PacketWhileBusyIsNotTaken :=
  fun _ _ _ _ _ _ hinputs hbusy =>
    step_of_readsAlike hinputs ⟨rfl, fun hidle => absurd hidle hbusy, fun _ _ => rfl, fun _ => rfl⟩

/-- Settles O39: `tick_en` is read in WAIT before the end of the hold only. -/
theorem ticksCountOnlyInAHold : Obligations.TicksCountOnlyInAHold := by
  intro s x rest tick hinputs hnot
  refine step_of_readsAlike hinputs ⟨rfl, fun _ => ⟨rfl, rfl, rfl⟩, fun hwait hticks => ?_, fun _ => rfl⟩
  exact hnot.elim (absurd hwait) (absurd · hticks)

/-- Settles O40: `tx_done` is read in ACK only, and `tx_ok` nowhere. -/
theorem txDoneMattersOnlyInAck : Obligations.TxDoneMattersOnlyInAck :=
  fun _ _ _ _ _ hinputs hdone => step_of_readsAlike hinputs
    ⟨rfl, fun _ => ⟨rfl, rfl, rfl⟩, fun _ _ => rfl, fun hack => hdone.resolve_left (not_not.mpr hack)⟩

end Sys2Proof

/-! PROOFS. What a step can change: the sequencer state, the fault flag, the heartbeat, D and the batch store
(42_sequencer.md rule R150, 60_exceptions.md rule R210, 10_state.md rules R29 to R31). -/
namespace Sys2Proof.Machine

/-! ### The three refusing verdicts -/

theorem parseBatch_eq_malformed_iff (ok : Bool) (buf : FrameBuf) :
    parseBatch ok buf = .drop .malformed ↔ ok = false := by
  refine ⟨fun h => ?_, fun h => parseBatch_of_not_ok h buf⟩
  rcases parseBatch_drop h with ⟨hok, -⟩ | ⟨-, -, hreason⟩
  · exact hok
  · cases hreason

theorem parseBatch_eq_address_iff (ok : Bool) (buf : FrameBuf) :
    parseBatch ok buf = .drop .address ↔ ok = true ∧ buf[1] ≠ Config.nodeAddr := by
  refine ⟨fun h => ?_, ?_⟩
  · rcases parseBatch_drop h with ⟨-, hreason⟩ | ⟨hok, haddr, -⟩
    · cases hreason
    · exact ⟨hok, haddr⟩
  · rintro ⟨rfl, haddr⟩
    exact parseBatch_of_other_address haddr

theorem parseBatch_eq_bounds_iff (ok : Bool) (buf : FrameBuf) (n : Byte) :
    parseBatch ok buf = .bounds n ↔
      ok = true ∧ buf[1] = Config.nodeAddr ∧ Config.maxBatch < buf[2].toNat ∧ n = buf[2] := by
  refine ⟨fun h => ?_, ?_⟩
  · obtain ⟨hok, haddr, rfl, hcount⟩ := parseBatch_bounds h
    exact ⟨hok, haddr, hcount, rfl⟩
  · rintro ⟨rfl, haddr, hcount, rfl⟩
    exact parseBatch_of_count_above haddr hcount

/-! ### The error causes -/

/-- An acceptance cycle: no reset, IDLE, and a packet offered. -/
def State.offered (s : State) : Prop := s.input.rst = false ∧ s.st = .idle ∧ s.input.rxValid = true

/-- The cause of an acceptance cycle is its refusing verdict. -/
theorem State.cause_of_offered {s : State} (h : s.offered) (c : Cause) :
    s.cause = some c ↔
      (c = .dropMalformed ∧ parseBatch s.input.rxOk s.input.rxBuf = .drop .malformed) ∨
      (c = .dropAddress ∧ parseBatch s.input.rxOk s.input.rxBuf = .drop .address) ∨
      (c = .faultBounds ∧ ∃ n, parseBatch s.input.rxOk s.input.rxBuf = .bounds n) := by
  obtain ⟨hrst, hidle, hvalid⟩ := h
  simp only [State.cause, hrst, hidle, hvalid]
  rcases parseBatch s.input.rxOk s.input.rxBuf with (_ | _) | n | ⟨n, is⟩ <;> simp [eq_comm]

/-- Outside an acceptance cycle the only cause is a lost ack, in ACK. -/
theorem State.cause_of_not_offered {s : State} (h : ¬ s.offered) (c : Cause) :
    s.cause = some c ↔
      c = .ackLost ∧ s.input.rst = false ∧ s.st = .ack ∧ s.input.txDone = true ∧ s.input.txOk = false := by
  cases hrst : s.input.rst with
  | true => simp [State.cause, hrst]
  | false =>
    cases hst : s.st with
    | idle =>
      have hvalid : s.input.rxValid = false := by simpa [State.offered, hrst, hst] using h
      simp [State.cause, hrst, hst, hvalid]
    | ack => simp [State.cause, hrst, hst, and_comm, eq_comm (a := c)]
    | issue | wait | fault => simp [State.cause, hrst, hst]

/-- The causes of all cycles (60_exceptions.md rule R210). -/
theorem State.cause_eq_some_iff (s : State) (c : Cause) :
    s.cause = some c ↔
      (s.offered ∧
        ((c = .dropMalformed ∧ parseBatch s.input.rxOk s.input.rxBuf = .drop .malformed) ∨
        (c = .dropAddress ∧ parseBatch s.input.rxOk s.input.rxBuf = .drop .address) ∨
        (c = .faultBounds ∧ ∃ n, parseBatch s.input.rxOk s.input.rxBuf = .bounds n))) ∨
      (c = .ackLost ∧ s.input.rst = false ∧ s.st = .ack ∧ s.input.txDone = true ∧ s.input.txOk = false) := by
  by_cases h : s.offered
  · obtain ⟨-, hidle, -⟩ := id h
    have hnotAck : s.st ≠ .ack := by simp [hidle]
    rw [State.cause_of_offered h, and_iff_right h]
    exact (or_iff_left fun ⟨_, _, hack, _⟩ => hnotAck hack).symm
  · rw [State.cause_of_not_offered h]
    exact (or_iff_right fun ⟨hoffered, _⟩ => h hoffered).symm

theorem State.cause_ne_badOpcode (s : State) : s.cause ≠ some .badOpcode := by
  rw [ne_eq, s.cause_eq_some_iff]
  simp

theorem State.cause_eq_dropMalformed_iff (s : State) :
    s.cause = some .dropMalformed ↔
      s.input.rst = false ∧ s.st = .idle ∧ s.input.rxValid = true ∧ s.input.rxOk = false := by
  simp [s.cause_eq_some_iff, parseBatch_eq_malformed_iff, State.offered, and_assoc]

theorem State.cause_eq_dropAddress_iff (s : State) :
    s.cause = some .dropAddress ↔ s.input.rst = false ∧ s.st = .idle ∧ s.input.rxValid = true ∧
      s.input.rxOk = true ∧ s.input.rxBuf[1] ≠ Config.nodeAddr := by
  simp [s.cause_eq_some_iff, parseBatch_eq_address_iff, State.offered, and_assoc]

theorem State.cause_eq_faultBounds_iff (s : State) :
    s.cause = some .faultBounds ↔ s.input.rst = false ∧ s.st = .idle ∧ s.input.rxValid = true ∧
      s.input.rxOk = true ∧ s.input.rxBuf[1] = Config.nodeAddr ∧ Config.maxBatch < s.input.rxBuf[2].toNat := by
  simp [s.cause_eq_some_iff, parseBatch_eq_bounds_iff, State.offered, and_assoc]

theorem State.cause_eq_ackLost_iff (s : State) :
    s.cause = some .ackLost ↔
      s.input.rst = false ∧ s.st = .ack ∧ s.input.txDone = true ∧ s.input.txOk = false := by
  simp [s.cause_eq_some_iff]

/-! ### What a cycle without reset changes -/

/-- Only the bounds fault writes the fault registers. -/
theorem CycleCase.fault_changed {s u : State} (h : CycleCase s u)
    (hchange : u.fault ≠ s.fault ∨ u.faultCnt ≠ s.faultCnt) :
    ∃ n, s.st = .idle ∧ s.input.rxValid = true ∧ parseBatch s.input.rxOk s.input.rxBuf = .bounds n ∧
      u = s.raiseBounds n := by
  cases h with
  | idleBounds n hidle hvalid hparse => exact ⟨n, hidle, hvalid, hparse, rfl⟩
  | _ => simp at hchange

/-- Only a Finish that toggles changes the heartbeat. -/
theorem CycleCase.hb_ne_iff {s u : State} (h : CycleCase s u) :
    u.hb ≠ s.hb ↔ s.st = .wait ∧ s.ticks.toNat = holdLength (classify s.cur) ∧ togglesHb (classify s.cur) = true := by
  cases h with
  | waitFinish hwait hticks => simp [hwait, hticks, finishHb_ne_iff, -ne_eq]
  | waitHold hwait hticks => simp [hticks]
  | idleSkip hst | idleDrop _ hst | idleBounds _ hst | idleAccept _ _ hst | issueDone hst | issueStart _ hst
  | ackDone hst | ackWait hst | stopped hst => simp [hst]

/-- Without reset D is cleared by the bounds fault and by the three Setups that clear it. -/
theorem CycleCase.detonate_cleared {s u : State} (h : CycleCase s u) (hset : s.lines.getLsbD 4 = true)
    (hclear : u.lines.getLsbD 4 = false) :
    (s.st = .idle ∧ u.st = .fault) ∨
    (s.st = .issue ∧ u.st = .wait ∧
      (classify u.cur = .stop ∨ (∃ a, classify u.cur = .forward a) ∨ ∃ a, classify u.cur = .backward a)) := by
  cases h with
  | idleBounds n hidle => exact .inl ⟨hidle, rfl⟩
  | issueStart b hissue => exact .inr ⟨hissue, rfl, setupLines_clears_detonate hset hclear⟩
  | waitFinish => cases hset.symm.trans ((finishLines_getLsbD_four _ _).symm.trans hclear)
  | waitHold => cases hset.symm.trans ((congrArg (BitVec.getLsbD · 4) s.hold_lines).symm.trans hclear)
  | _ => cases hset.symm.trans hclear

/-- Only acceptance writes the batch store or the count. -/
theorem CycleCase.store_eq {s u : State} (h : CycleCase s u) :
    (u.cnt = s.cnt ∧ u.mem = s.mem ∧ u.epoch = s.epoch) ∨
    ∃ n is, s.st = .idle ∧ s.input.rxValid = true ∧ parseBatch s.input.rxOk s.input.rxBuf = .accept n is := by
  cases h with
  | idleAccept n is hidle hvalid hparse => exact .inr ⟨n, is, hidle, hvalid, hparse⟩
  | _ => simp

end Sys2Proof.Machine

namespace Sys2Proof
open Machine

/-! ### The statements -/

/-- Settles O41: the step is a reset or one of the cases, and the condition of each case selects its row. -/
theorem transitionTable : Obligations.TransitionTable := by
  intro s t hstep
  rcases step_next_cases hstep with ⟨hrst, rfl⟩ | ⟨hrst, u, hu, rfl⟩
  · exact ⟨fun _ => ⟨rfl, rfl, rfl, rfl, rfl, rfl, rfl, rfl, rfl, rfl⟩, fun h => by simp [hrst] at h⟩
  · refine ⟨fun h => by simp [hrst] at h, fun _ => ?_⟩
    cases hu with
    | idleSkip hst hvalid => simp [hst, hvalid]
    | idleDrop _ hst hvalid hparse | idleBounds _ hst hvalid hparse | idleAccept _ _ hst hvalid hparse =>
      simp [hst, hvalid, hparse]
    | issueDone hst hcond | issueStart _ hst hcond | waitFinish hst hcond | waitHold hst hcond | ackDone hst hcond
    | ackWait hst hcond => simp [hst, hcond]
    | stopped hst => simp [hst]

/-- Settles O42: the causes by the verdicts, and the step of each refused packet and of a lost ack. -/
theorem errorCausesAndEffects : Obligations.ErrorCausesAndEffects := by
  intro s
  refine ⟨s.cause_ne_badOpcode, s.cause_eq_dropMalformed_iff, s.cause_eq_dropAddress_iff, s.cause_eq_faultBounds_iff,
    s.cause_eq_ackLost_iff, ?_, ?_, ?_⟩
  · intro hcause
    have hdrop : ∃ r, s.offered ∧ parseBatch s.input.rxOk s.input.rxBuf = .drop r := by
      rcases hcause with hcause | hcause
      · obtain ⟨hrst, hidle, hvalid, hok⟩ := s.cause_eq_dropMalformed_iff.mp hcause
        exact ⟨_, ⟨hrst, hidle, hvalid⟩, (parseBatch_eq_malformed_iff _ _).mpr hok⟩
      · obtain ⟨hrst, hidle, hvalid, hbad⟩ := s.cause_eq_dropAddress_iff.mp hcause
        exact ⟨_, ⟨hrst, hidle, hvalid⟩, (parseBatch_eq_address_iff _ _).mpr hbad⟩
    obtain ⟨r, ⟨hrst, hidle, hvalid⟩, hparse⟩ := hdrop
    obtain ⟨hstep, -, hsilent⟩ := dropped_packet_changes_nothing hrst hidle hvalid hparse
    exact ⟨hstep, hsilent⟩
  · intro hcause
    obtain ⟨hrst, hidle, hvalid, hok, haddr, hcount⟩ := s.cause_eq_faultBounds_iff.mp hcause
    exact ⟨s.transmission_of_ne_ack (by simp [hidle]), boundsFaultEntry s hrst hidle hvalid hok haddr hcount⟩
  · intro hcause
    obtain ⟨hrst, hack, hdone, -⟩ := s.cause_eq_ackLost_iff.mp hcause
    exact step_of_ack_done s hrst hack hdone

/-- Settles O43: the fault registers are written by reset and by the bounds fault only. -/
theorem onlyBoundsSetsAndResetClearsFault : Obligations.OnlyBoundsSetsAndResetClearsFault := by
  intro s t hstep hchange
  rcases step_next_cases hstep with ⟨hrst, rfl⟩ | ⟨hrst, u, hu, rfl⟩
  · exact .inl ⟨hrst, rfl, rfl⟩
  · obtain ⟨n, hidle, hvalid, hparse, rfl⟩ := hu.fault_changed hchange
    obtain ⟨hok, haddr, hcount, rfl⟩ := (parseBatch_eq_bounds_iff _ _ n).mp hparse
    exact .inr ⟨hrst, hidle, hvalid, hok, haddr, hcount, rfl, rfl⟩

/-- Settles O44: the heartbeat changes exactly at the Finish of an instruction whose row toggles it. -/
theorem onlyFinishTogglesHeartbeat : Obligations.OnlyFinishTogglesHeartbeat := by
  intro s t hstep hnorst
  rcases step_next_cases hstep with ⟨hrst, -⟩ | ⟨-, u, hu, rfl⟩
  · cases hrst.symm.trans hnorst
  · rw [← togglesHb_eq_true_iff]
    exact hu.hb_ne_iff

/-- Settles O45: without reset, D is cleared by the bounds fault and by the Setups of STOP, FORWARD and BACKWARD. -/
theorem detonatePersists : Obligations.DetonatePersists := by
  intro s t hstep hset hclear
  rcases step_next_cases hstep with ⟨hrst, -⟩ | ⟨-, u, hu, rfl⟩
  · exact .inl hrst
  · exact .inr (hu.detonate_cleared hset hclear)

/-- Settles O46: without reset only acceptance writes the store or the count. -/
theorem batchStoreStableDuringBatch : Obligations.BatchStoreStableDuringBatch := by
  intro s t hstep hnorst hnot
  rcases step_next_cases hstep with ⟨hrst, -⟩ | ⟨-, u, hu, rfl⟩
  · cases hrst.symm.trans hnorst
  · rcases hu.store_eq with ⟨hcnt, hmem, hepoch⟩ | ⟨n, is, hidle, hvalid, hparse⟩
    · have hentry : ∀ a, u.edge.mem.entry a = s.mem.entry a := fun a => by rw [State.edge_mem, hmem]
      exact ⟨hcnt, fun a => ⟨hentry a, State.readEntry_congr (hentry a) hepoch⟩⟩
    · rcases hnot with hbusy | hnone | hrefused
      · exact absurd hidle hbusy
      · cases hvalid.symm.trans hnone
      · exact absurd hparse (hrefused n is)

end Sys2Proof

/-! PROOFS. The invariant is kept by every step, and what it gives: the counters never wrap, the lines stay exclusive
(10_state.md rules R22 to R31, 43_motion.md rules R189 to R191). -/
namespace Sys2Proof.Machine

/-! ### The invariant reads the registers only -/

theorem Inv.of_sameRegisters {s t : State} (h : Inv s) (hregs : sameRegisters s t) : Inv t := by
  cases s
  cases t
  obtain ⟨rfl, rfl, rfl, rfl, rfl, rfl, rfl, rfl, rfl, rfl⟩ := hregs
  exact ⟨h.memWf, h.cntBound, h.cursorBound, h.waitBound, h.atCount, h.written, h.latched, h.ticksBound, h.ticksClear,
    h.linesBoundary, h.linesHeld, h.faultFlag, h.faultLines, h.faultCountSet, h.faultCountClear⟩

theorem Inv.edge {s : State} (h : Inv s) : Inv s.edge :=
  h.of_sameRegisters s.sameRegisters_edge

theorem State.sameRegisters_withInputs (s : State) (xs : List Input) : sameRegisters s (s.withInputs xs) :=
  ⟨rfl, rfl, rfl, rfl, rfl, rfl, rfl, rfl, rfl, rfl⟩

theorem State.sameRegisters_applyReset (s : State) : sameRegisters State.reset s.applyReset :=
  ⟨rfl, rfl, rfl, rfl, rfl, rfl, rfl, rfl, rfl, rfl⟩

/-- The invariant at reset (10_state.md rule R38): IDLE, every register clear, nothing in the store. -/
theorem inv_reset : Inv State.reset := by
  constructor <;> decide

/-! ### The cursor and the tick counter under the invariant -/

section
variable {s : State}

/-- Before the end of a batch the cursor is below the count. -/
theorem Inv.cursor_lt (h : Inv s) (hk : s.k ≠ s.cnt) : s.k.toNat < s.cnt.toNat :=
  lt_of_le_of_ne h.cursorBound (mt BitVec.eq_of_toNat_eq hk)

/-- The cursor does not wrap at a Finish (10_state.md rule R22). -/
theorem Inv.cursor_succ (h : Inv s) (hwait : s.st = .wait) : (s.k + 1#6).toNat = s.k.toNat + 1 := by
  have hlt := h.waitBound hwait
  have hcnt : s.cnt.toNat ≤ 50 := h.cntBound
  bv_omega

/-- Before the end of the hold the counter is below it. -/
theorem Inv.ticks_lt (h : Inv s) (hwait : s.st = .wait) (hticks : s.ticks.toNat ≠ holdLength (classify s.cur)) :
    s.ticks.toNat < holdLength (classify s.cur) :=
  lt_of_le_of_ne (h.ticksBound hwait) hticks

/-- The tick counter does not wrap before the end of the hold (43_motion.md rule R191). -/
theorem Inv.ticks_succ (h : Inv s) (hwait : s.st = .wait) (hticks : s.ticks.toNat ≠ holdLength (classify s.cur)) :
    (s.ticks + 1#16).toNat = s.ticks.toNat + 1 := by
  have hlt := h.ticks_lt hwait hticks
  have hhold := holdLength_le (classify s.cur)
  bv_omega

/-- The fetch before the end of a batch reads a written entry (20_memory.md rule R58). -/
theorem Inv.fetch_written (h : Inv s) (hissue : s.st = .issue) (hk : s.k ≠ s.cnt) :
    ∃ b, s.mem.entry s.k.toNat = some b ∧ s.fetch = some b := by
  have hlt := h.cursor_lt hk
  obtain ⟨b, hb⟩ := Option.isSome_iff_exists.mp (h.written (.inl hissue) _ hlt)
  exact ⟨b, hb, s.fetch_of_entry b (hlt.trans_le h.cntBound) hb⟩

end

/-! ### The lines -/

theorem boundaryLines_iff (l : Lines) : boundaryLines l = true ↔ l = lineNone ∨ l = lineD := by
  simp [boundaryLines]

theorem exclusiveLines_of_boundaryLines {l : Lines} (h : boundaryLines l = true) : exclusiveLines l = true := by
  rcases (boundaryLines_iff l).mp h with rfl | rfl <;> rfl

/-- A Setup at a boundary leaves the lines exclusive (43_motion.md rule R190). -/
theorem exclusiveLines_setupLines (i : Instr) {l : Lines} (h : boundaryLines l = true) :
    exclusiveLines (setupLines i l) = true := by
  rcases (boundaryLines_iff l).mp h with rfl | rfl <;> cases i <;> rfl

/-- A whole instruction leads from a boundary to a boundary (43_motion.md rule R189). -/
theorem boundaryLines_linesAfter (i : Instr) {l : Lines} (h : boundaryLines l = true) :
    boundaryLines (linesAfter i l) = true := by
  rcases (boundaryLines_iff l).mp h with rfl | rfl <;> cases i <;> simp only [linesAfter, setupLines, finishLines] <;>
    decide

theorem Inv.exclusiveLines {s : State} (h : Inv s) : exclusiveLines s.lines = true := by
  by_cases hwait : s.st = .wait
  · obtain ⟨l, hl, hlines⟩ := h.linesHeld hwait
    rw [hlines]
    exact exclusiveLines_setupLines _ hl
  · exact exclusiveLines_of_boundaryLines (h.linesBoundary hwait)

/-! ### Every case of the cycle keeps the invariant -/

section
variable {s : State}

/-- The flag stays clear between two sequencer states other than FAULT. -/
theorem Inv.faultFlag_of_running (h : Inv s) (hs : s.st ≠ .fault) {q : SeqState} (hq : q ≠ .fault) :
    s.fault = true ↔ q = .fault :=
  iff_of_false (mt h.faultFlag.mp hs) hq

theorem Inv.acceptBatch (h : Inv s) (hidle : s.st = .idle) {n : Byte} {is : List Byte}
    (hcount : n.toNat ≤ Config.maxBatch) (hlength : is.length = n.toNat) : Inv (s.acceptBatch n is) := by
  have hcnt := s.acceptBatch_cnt_toNat n is hcount
  exact
  { memWf := Memory.wf_writeFrom is s.mem 0 (by omega) h.memWf
    cntBound := hcnt.trans_le hcount
    cursorBound := Nat.zero_le _
    waitBound := nofun
    atCount := fun hissue => absurd rfl hissue
    written := fun _ j hj => by
      have hlt : j < is.length := by omega
      rw [s.acceptBatch_entry_of_lt n is hlt, List.getElem?_eq_getElem hlt]
      rfl
    latched := nofun
    ticksBound := nofun
    ticksClear := fun _ => h.ticksClear (by simp [hidle])
    linesBoundary := fun _ => h.linesBoundary (by simp [hidle])
    linesHeld := nofun
    faultFlag := h.faultFlag_of_running (by simp [hidle]) (by simp)
    faultLines := nofun
    faultCountSet := h.faultCountSet
    faultCountClear := h.faultCountClear }

theorem Inv.raiseBounds (h : Inv s) (hidle : s.st = .idle) {n : Byte} (hcount : Config.maxBatch < n.toNat) :
    Inv (s.raiseBounds n) where
  memWf := h.memWf
  cntBound := h.cntBound
  cursorBound := h.cursorBound
  waitBound := nofun
  atCount _ _ := h.atCount (by simp [hidle]) (by simp [hidle])
  written := nofun
  latched := nofun
  ticksBound := nofun
  ticksClear _ := h.ticksClear (by simp [hidle])
  linesBoundary _ := rfl
  linesHeld := nofun
  faultFlag := iff_of_true rfl rfl
  faultLines _ := rfl
  faultCountSet _ := hcount
  faultCountClear := nofun

theorem Inv.startInstr (h : Inv s) (hissue : s.st = .issue) (hk : s.k ≠ s.cnt) {b : Byte}
    (hentry : s.mem.entry s.k.toNat = some b) : Inv ((s.latch b).setup (setupLines (classify b) s.lines)) where
  memWf := h.memWf
  cntBound := h.cntBound
  cursorBound := h.cursorBound
  waitBound _ := h.cursor_lt hk
  atCount _ hwait := absurd rfl hwait
  written _ := h.written (.inl hissue)
  latched _ := hentry
  ticksBound _ := Nat.zero_le _
  ticksClear hwait := absurd rfl hwait
  linesBoundary hwait := absurd rfl hwait
  linesHeld _ := ⟨s.lines, h.linesBoundary (by simp [hissue]), rfl⟩
  faultFlag := h.faultFlag_of_running (by simp [hissue]) (by simp)
  faultLines := nofun
  faultCountSet := h.faultCountSet
  faultCountClear := h.faultCountClear

theorem Inv.finish (h : Inv s) (hwait : s.st = .wait) (hb : Bool) :
    Inv (s.finish (finishLines (classify s.cur) s.lines) hb) where
  memWf := h.memWf
  cntBound := h.cntBound
  cursorBound := (h.cursor_succ hwait).trans_le (h.waitBound hwait)
  waitBound := nofun
  atCount hissue := absurd rfl hissue
  written _ := h.written (.inr hwait)
  latched := nofun
  ticksBound := nofun
  ticksClear _ := rfl
  linesBoundary _ := by
    obtain ⟨l, hl, hlines⟩ := h.linesHeld hwait
    rw [State.finish_lines, hlines]
    exact boundaryLines_linesAfter (classify s.cur) hl
  linesHeld := nofun
  faultFlag := h.faultFlag_of_running (by simp [hwait]) (by simp)
  faultLines := nofun
  faultCountSet := h.faultCountSet
  faultCountClear := h.faultCountClear

/-- A counted tick before the end of the hold. -/
theorem Inv.countTick (h : Inv s) (hwait : s.st = .wait) (hticks : s.ticks.toNat ≠ holdLength (classify s.cur)) :
    Inv { s with ticks := s.ticks + 1#16 } where
  memWf := h.memWf
  cntBound := h.cntBound
  cursorBound := h.cursorBound
  waitBound := h.waitBound
  atCount := h.atCount
  written := h.written
  latched := h.latched
  ticksBound _ := (h.ticks_succ hwait hticks).trans_le (h.ticks_lt hwait hticks)
  ticksClear hnot := absurd hwait hnot
  linesBoundary := h.linesBoundary
  linesHeld := h.linesHeld
  faultFlag := h.faultFlag
  faultLines := h.faultLines
  faultCountSet := h.faultCountSet
  faultCountClear := h.faultCountClear

theorem Inv.hold (h : Inv s) (hwait : s.st = .wait) (hticks : s.ticks.toNat ≠ holdLength (classify s.cur)) :
    Inv s.hold := by
  cases htick : s.input.tickEn with
  | true => rw [State.hold_of_tick htick]; exact h.countTick hwait hticks
  | false => rw [State.hold_of_no_tick htick]; exact h

/-- Between boundaries outside execution, with the cursor at the count, only `st` moves. -/
theorem Inv.enter (h : Inv s) (hwait : s.st ≠ .wait) (hfault : s.st ≠ .fault) (hk : s.k = s.cnt) {q : SeqState}
    (hq : q = .ack ∨ q = .idle) : Inv (s.enter q) where
  memWf := h.memWf
  cntBound := h.cntBound
  cursorBound := h.cursorBound
  waitBound hst := by rcases hq with rfl | rfl <;> cases hst
  atCount _ _ := hk
  written hst := by rcases hq with rfl | rfl <;> simp at hst
  latched hst := by rcases hq with rfl | rfl <;> cases hst
  ticksBound hst := by rcases hq with rfl | rfl <;> cases hst
  ticksClear _ := h.ticksClear hwait
  linesBoundary _ := h.linesBoundary hwait
  linesHeld hst := by rcases hq with rfl | rfl <;> cases hst
  faultFlag := h.faultFlag_of_running hfault (by rcases hq with rfl | rfl <;> simp)
  faultLines hst := by rcases hq with rfl | rfl <;> cases hst
  faultCountSet := h.faultCountSet
  faultCountClear := h.faultCountClear

theorem CycleCase.inv {u : State} (hu : CycleCase s u) (h : Inv s) : Inv u := by
  cases hu with
  | idleSkip | idleDrop | ackWait | stopped => exact h
  | idleBounds n hidle _ hparse =>
    obtain ⟨-, -, -, hcount⟩ := parseBatch_bounds hparse
    exact h.raiseBounds hidle hcount
  | idleAccept n is hidle _ hparse =>
    obtain ⟨-, -, -, hcount, -, hlength⟩ := parseBatch_accept hparse
    exact h.acceptBatch hidle hcount hlength
  | issueDone hissue hk => exact h.enter (by simp [hissue]) (by simp [hissue]) hk (.inl rfl)
  | issueStart b hissue hk hfetch =>
    obtain ⟨b', hentry, hfetch'⟩ := h.fetch_written hissue hk
    obtain rfl : b = b' := Option.some.inj (hfetch.symm.trans hfetch')
    exact h.startInstr hissue hk hentry
  | waitFinish hwait _ => exact h.finish hwait _
  | waitHold hwait hticks => exact h.hold hwait hticks
  | ackDone hack _ =>
    exact h.enter (by simp [hack]) (by simp [hack]) (h.atCount (by simp [hack]) (by simp [hack])) (.inr rfl)

/-- No step from a state that meets the invariant stops, and the next state meets it again. -/
theorem Inv.step (h : Inv s) : ∃ t, step s = .next t ∧ Inv t := by
  cases hrst : s.input.rst with
  | true => exact ⟨_, step_of_reset s hrst, (inv_reset.of_sameRegisters s.sameRegisters_applyReset).edge⟩
  | false =>
    rcases cycle_cases s with ⟨u, hu⟩ | ⟨hissue, hk, hnone⟩
    · exact ⟨_, hu.step_eq hrst, (hu.inv h).edge⟩
    · obtain ⟨b, -, hfetch⟩ := h.fetch_written hissue hk
      cases hfetch.symm.trans hnone

theorem Inv.of_step {t : State} (h : Inv s) (hstep : Machine.step s = .next t) : Inv t := by
  obtain ⟨t', hstep', ht'⟩ := h.step
  cases hstep.symm.trans hstep'
  exact ht'

/-- Every run from a state that meets the invariant ends in one. -/
theorem Inv.run (h : Inv s) (n : Nat) : ∃ t, run n s = .next t ∧ Inv t := by
  induction n generalizing s with
  | zero => exact ⟨s, rfl, h⟩
  | succ n ih =>
    obtain ⟨u, hstep, hu⟩ := h.step
    rw [run_succ_of_step n hstep]
    exact ih hu

end

/-- Outside acceptance the cursor moves exactly at a Finish, by one. -/
theorem CycleCase.cursor {s u : State} (h : CycleCase s u) (hbusy : s.st ≠ .idle) :
    if s.st = .wait ∧ s.ticks.toNat = holdLength (classify s.cur) then u.k = s.k + 1#6 ∧ u.st = .issue
      else u.k = s.k := by
  cases h with
  | idleSkip hst | idleDrop _ hst | idleBounds _ hst | idleAccept _ _ hst => exact absurd hst hbusy
  | waitFinish hwait hticks => simp [hwait, hticks]
  | waitHold hwait hticks => simp [hticks]
  | issueDone hst | issueStart _ hst | ackDone hst | ackWait hst | stopped hst => simp [hst]

/-! ### Runs from reset that assert D with a turn -/

/-- An environment that offers the batch of DETONATE(arg=1) and one more byte, and then stays quiet. -/
def detonateThen (b : Byte) : List Input :=
  [{ Input.quiet with rxValid := true, rxOk := true, rxBuf := padFrame [0x04#8, 0x01#8, 0x02#8, 0x01#8, b] [] },
    Input.quiet, Input.quiet, Input.quiet]

end Sys2Proof.Machine

namespace Sys2Proof
open Machine

/-! ### The statements -/

/-- Settles O50: every case of the cycle keeps the invariant, and a fetch under it finds a written entry. -/
theorem stepKeepsTheInvariant : Obligations.StepKeepsTheInvariant := fun _ h => h.step

/-- Settles O49, clause by clause. -/
theorem invariantAtReset : Obligations.InvariantAtReset := inv_reset

/-- Settles O47: the case of the cycle moves the cursor, and the invariant of the next state bounds it. -/
theorem cursorAdvancesByOne : Obligations.CursorAdvancesByOne := by
  intro s t h hstep hnorst hbusy
  refine ⟨(h.of_step hstep).cursorBound, ?_⟩
  rcases step_next_cases hstep with ⟨hrst, -⟩ | ⟨-, u, hu, rfl⟩
  · cases hrst.symm.trans hnorst
  · have hcursor := hu.cursor hbusy
    split at hcursor
    next hfinish =>
      rw [if_pos hfinish, State.edge_k, hcursor.1]
      exact ⟨h.cursor_succ hfinish.1, hcursor.2⟩
    next hfinish => rwa [if_neg hfinish]

/-- Settles O48, from the bounds the invariant puts on the two counters. -/
theorem countersNeverWrap : Obligations.CountersNeverWrap := by
  refine ⟨holdLength_le, fun s h hwait => ⟨h.cursor_succ hwait, ?_, fun hticks => ⟨h.ticks_succ hwait hticks, ?_⟩⟩⟩
  · calc (s.k + 1#6).toNat = s.k.toNat + 1 := h.cursor_succ hwait
      _ ≤ s.cnt.toNat := h.waitBound hwait
      _ ≤ 50 := h.cntBound
  · exact (h.ticks_succ hwait hticks).trans_le (h.ticks_lt hwait hticks)

/-- Settles O51: exclusiveness from the invariant, and two runs of four cycles: acceptance, the two cycles of DETONATE,
the Setup of the turn. -/
theorem motionLinesExclusive : Obligations.MotionLinesExclusive :=
  ⟨fun _ h => h.exclusiveLines, ⟨detonateThen 0x60#8, 4, _, rfl, rfl⟩, ⟨detonateThen 0x61#8, 4, _, rfl, rfl⟩⟩

/-- Settles O52: the invariant holds at reset with any samples, and along every run. -/
theorem everyRunFromResetIsSafe : Obligations.EveryRunFromResetIsSafe := by
  intro env n
  obtain ⟨t, hrun, ht⟩ := (inv_reset.of_sameRegisters (State.reset.sameRegisters_withInputs env)).run n
  exact ⟨t, hrun, ht.exclusiveLines, fun hwait => (boundaryLines_iff _).mp (ht.linesBoundary hwait), ht.faultFlag,
    ht.faultLines⟩

end Sys2Proof

/-! PROOFS. Stalls, the acknowledgment of a batch, and the free bytes of the store, along whole runs (42_sequencer.md
rules R159, R165 and R166, 20_memory.md rule R58). -/
namespace Sys2Proof.Machine

/-! ### One more cycle -/

theorem run_one {s t : State} (h : step s = .next t) : run 1 s = .next t := run_succ_of_step 0 h

/-- The inversion of a run that ends in a next state. -/
theorem run_succ_next {n : Nat} {s t : State} (h : run (n + 1) s = .next t) :
    ∃ u, step s = .next u ∧ run n u = .next t := by
  rw [run] at h
  split at h
  next u hstep => exact ⟨u, hstep, h⟩
  · cases h
  · cases h

/-- A single cycle leaves its record, whether it stops or not. -/
theorem trace_one (s : State) : trace 1 s = [s.record] := by
  rw [trace]
  cases step s <;> rfl

theorem transmissions_cons_of_none {r : CycleRecord} (h : r.sent = none) (l : List CycleRecord) :
    transmissions (r :: l) = transmissions l := by
  simp [transmissions, h]

theorem transmissions_cons_of_some {r : CycleRecord} {x : Transmission} (h : r.sent = some x) (l : List CycleRecord) :
    transmissions (r :: l) = (r.cycle, x) :: transmissions l := by
  simp [transmissions, h]

theorem countedTicks_cons (r : CycleRecord) (l : List CycleRecord) :
    countedTicks (r :: l) = r.counted.toNat + countedTicks l := by
  cases h : r.counted <;> simp [countedTicks, h, Nat.add_comm]

theorem State.countsTick_of_ne_wait {s : State} (h : s.st ≠ .wait) : s.countsTick = false := by
  simp [State.countsTick, h]

/-! ### Runs that send nothing -/

/-- The run of `n` cycles from `s` ends in `t`, counts `w` ticks and sends nothing. -/
structure SilentRun (n : Nat) (s t : State) (w : Nat) : Prop where
  run_eq : run n s = .next t
  counted : countedTicks (trace n s) = w
  silent : transmissions (trace n s) = []

theorem SilentRun.one {s t : State} (hstep : step s = .next t) (hsilent : s.transmission = none) :
    SilentRun 1 s t s.countsTick.toNat where
  run_eq := run_one hstep
  counted := by rw [trace_one, countedTicks_cons]; rfl
  silent := by rw [trace_one, transmissions_cons_of_none hsilent]; rfl

theorem SilentRun.one_of_uncounted {s t : State} (hstep : step s = .next t) (hsilent : s.transmission = none)
    (huncounted : s.countsTick = false) : SilentRun 1 s t 0 := by
  have hone := SilentRun.one hstep hsilent
  rwa [huncounted] at hone

theorem SilentRun.trans {n m : Nat} {s t u : State} {v w : Nat} (h : SilentRun n s t v) (h' : SilentRun m t u w) :
    SilentRun (n + m) s u (v + w) where
  run_eq := (run_add m h.run_eq).trans h'.run_eq
  counted := by rw [trace_add m h.run_eq, countedTicks_append, h.counted, h'.counted]
  silent := by rw [trace_add m h.run_eq, transmissions_append, h.silent, h'.silent]; rfl

theorem SilentRun.cons {n : Nat} {s t u : State} {w : Nat} (hstep : step s = .next t) (hsilent : s.transmission = none)
    (h : SilentRun n t u w) : SilentRun (n + 1) s u (s.countsTick.toNat + w) := by
  rw [Nat.add_comm n 1]
  exact (SilentRun.one hstep hsilent).trans h

/-! ### Stalls -/

/-- The state after `n` clock edges and nothing else. -/
def State.later (s : State) (n : Nat) : State :=
  { s with inputs := s.inputs.drop n, cycle := s.cycle + n }

theorem State.sameRegisters_later (s : State) (n : Nat) : sameRegisters s (s.later n) :=
  ⟨rfl, rfl, rfl, rfl, rfl, rfl, rfl, rfl, rfl, rfl⟩

theorem State.edge_later (s : State) (n : Nat) : (s.later n).edge = s.later (n + 1) := by
  simp [State.edge, State.later, Nat.add_assoc]

/-- A cycle that only passes the clock edge, sends nothing and counts no tick. -/
structure State.Stalls (s : State) : Prop where
  step_eq : step s = .next s.edge
  silent : s.transmission = none
  uncounted : s.countsTick = false

/-- A run of stalling cycles is that many clock edges. -/
theorem run_of_stalls {n : Nat} {s : State} (h : ∀ j, j < n → run j s = .next (s.later j) → (s.later j).Stalls) :
    SilentRun n s (s.later n) 0 := by
  induction n with
  | zero => exact ⟨rfl, rfl, rfl⟩
  | succ n ih =>
    have hrun := ih fun j hj => h j (Nat.lt_succ_of_lt hj)
    obtain ⟨hstep, hsilent, huncounted⟩ := h n n.lt_succ_self hrun.run_eq
    rw [s.edge_later] at hstep
    exact hrun.trans (.one_of_uncounted hstep hsilent huncounted)

theorem State.stalls_of_fault {s : State} (hrst : s.input.rst = false) (hfault : s.st = .fault) : s.Stalls where
  step_eq := step_of_fault s hrst hfault
  silent := s.transmission_of_ne_ack (by simp [hfault])
  uncounted := State.countsTick_of_ne_wait (by simp [hfault])

theorem State.stalls_of_ack {s : State} (hrst : s.input.rst = false) (hack : s.st = .ack)
    (hdone : s.input.txDone = false) : s.Stalls where
  step_eq := step_of_ack_wait s hrst hack hdone
  silent := if_neg (by simp [hdone])
  uncounted := State.countsTick_of_ne_wait (by simp [hack])

theorem State.stalls_of_hold {s : State} (hrst : s.input.rst = false) (hwait : s.st = .wait)
    (hticks : s.ticks.toNat ≠ holdLength (classify s.cur)) (htick : s.input.tickEn = false) : s.Stalls where
  step_eq := by rw [step_of_wait_hold s hrst hwait hticks, State.hold_of_no_tick htick]
  silent := s.transmission_of_ne_ack (by simp [hwait])
  uncounted := by simp [State.countsTick, htick]

/-! ### One acknowledgment for each batch -/

theorem State.transmission_of_ack_done {s : State} (hrst : s.input.rst = false) (hack : s.st = .ack)
    (hdone : s.input.txDone = true) : s.transmission = some ⟨frameAck, s.input.txOk⟩ :=
  if_pos ⟨hrst, hack, hdone⟩

theorem noReset_first {n : Nat} {s : State} (h : noReset (n + 1) s) : s.input.rst = false :=
  h 0 n.succ_pos s rfl

theorem noReset_rest {n : Nat} {s u : State} (h : noReset (n + 1) s) (hstep : step s = .next u) : noReset n u :=
  fun j hj t hrun => h (j + 1) (Nat.succ_lt_succ hj) t ((run_succ_of_step j hstep).trans hrun)

/-- Without reset a busy cycle stays busy and silent, or it is a cycle of ACK with `tx_done`. -/
theorem CycleCase.busy_cases {s u : State} (h : CycleCase s u) (hbusy : s.busy = true) :
    (u.busy = true ∧ ¬ (s.st = .ack ∧ s.input.txDone = true)) ∨
    (s.st = .ack ∧ s.input.txDone = true ∧ u.st = .idle) := by
  cases h with
  | idleSkip hst | idleDrop _ hst | idleBounds _ hst | idleAccept _ _ hst | stopped hst =>
    simp [State.busy, hst] at hbusy
  | issueDone hst | issueStart _ hst | waitFinish hst | waitHold hst => exact .inl (by simp [State.busy, hst])
  | ackDone hst hdone => exact .inr ⟨hst, hdone, rfl⟩
  | ackWait hst hdone => exact .inl ⟨hbusy, by simp [hdone]⟩

/-- The same of a step, with what it transmits (42_sequencer.md rules R158 and R159). -/
theorem step_of_busy {s u : State} (hstep : step s = .next u) (hrst : s.input.rst = false) (hbusy : s.busy = true) :
    (u.busy = true ∧ s.transmission = none) ∨
    (u.st = .idle ∧ s.transmission = some ⟨frameAck, s.input.txOk⟩) := by
  rcases step_next_cases hstep with ⟨hreset, -⟩ | ⟨-, v, hv, rfl⟩
  · cases hreset.symm.trans hrst
  · rcases hv.busy_cases hbusy with ⟨hv', hnot⟩ | ⟨hack, hdone, hidle⟩
    · exact .inl ⟨hv', if_neg fun ⟨_, hsending⟩ => hnot hsending⟩
    · exact .inr ⟨hidle, State.transmission_of_ack_done hrst hack hdone⟩

/-! ### The free bytes of the store -/

/-- `s` with other free bytes in the unwritten entries of its store. -/
def State.withEpoch (s : State) (e : Nat) : State := { s with epoch := e }

theorem State.hold_withEpoch (s : State) (e : Nat) : (s.withEpoch e).hold = s.hold.withEpoch e := by
  cases htick : s.input.tickEn with
  | true => rw [State.hold_of_tick htick, State.hold_of_tick (s := s.withEpoch e) htick]; rfl
  | false => rw [State.hold_of_no_tick htick, State.hold_of_no_tick (s := s.withEpoch e) htick]

/-- Under the invariant a cycle falls under the same case whatever the free bytes: its fetch reads a written entry. -/
theorem CycleCase.withEpoch {s u : State} (hu : CycleCase s u) (h : Inv s) (e : Nat) :
    CycleCase (s.withEpoch e) (u.withEpoch e) := by
  cases hu with
  | idleSkip hidle hv => exact .idleSkip hidle hv
  | idleDrop r hidle hv hp => exact .idleDrop r hidle hv hp
  | idleBounds n hidle hv hp => exact .idleBounds n hidle hv hp
  | idleAccept n is hidle hv hp => exact .idleAccept n is hidle hv hp
  | issueDone hissue hk => exact .issueDone hissue hk
  | issueStart b hissue hk hfetch =>
    obtain ⟨b', hentry, hfetch'⟩ := h.fetch_written hissue hk
    obtain rfl : b = b' := Option.some.inj (hfetch.symm.trans hfetch')
    have hbound : s.k.toNat < Config.maxBatch := (h.cursor_lt hk).trans_le h.cntBound
    exact .issueStart b hissue hk ((s.withEpoch e).fetch_of_entry b hbound hentry)
  | waitFinish hwait hticks => exact .waitFinish hwait hticks
  | waitHold hwait hticks =>
    rw [← s.hold_withEpoch e]
    exact .waitHold hwait hticks
  | ackDone hack hd => exact .ackDone hack hd
  | ackWait hack hd => exact .ackWait hack hd
  | stopped hfault => exact .stopped hfault

/-- Under the invariant two states that differ in their free bytes step to two such states; a reset renews both. -/
theorem Inv.step_withEpoch {s t : State} (h : Inv s) (hstep : Machine.step s = .next t) (e : Nat) :
    ∃ e', Machine.step (s.withEpoch e) = .next (t.withEpoch e') := by
  rcases step_next_cases hstep with ⟨hrst, rfl⟩ | ⟨hrst, u, hu, rfl⟩
  · exact ⟨e + 1, step_of_reset (s.withEpoch e) hrst⟩
  · exact ⟨e, CycleCase.step_eq (s := s.withEpoch e) hrst (hu.withEpoch h e)⟩

theorem Inv.run_withEpoch {s : State} (h : Inv s) (n e : Nat) :
    ∃ t e', Machine.run n s = .next t ∧ Machine.run n (s.withEpoch e) = .next (t.withEpoch e') ∧
      trace n (s.withEpoch e) = trace n s := by
  induction n generalizing s e with
  | zero => exact ⟨s, e, rfl, rfl, rfl⟩
  | succ n ih =>
    obtain ⟨u, hstep, hu⟩ := h.step
    obtain ⟨e', hstep'⟩ := h.step_withEpoch hstep e
    have hrecord : (s.withEpoch e).record = s.record := rfl
    rw [run_succ_of_step n hstep, run_succ_of_step n hstep', trace_succ_of_step n hstep, trace_succ_of_step n hstep',
      hrecord]
    obtain ⟨t, e'', hrun, hrun', htrace⟩ := ih hu e'
    exact ⟨t, e'', hrun, hrun', congrArg _ htrace⟩

end Sys2Proof.Machine

namespace Sys2Proof
open Machine

/-! ### The statements -/

/-- Settles O53: every cycle of FAULT without reset stalls. -/
theorem faultLastsUntilReset : Obligations.FaultLastsUntilReset := by
  intro n s hfault hrst
  have hrun : SilentRun n s (s.later n) 0 :=
    run_of_stalls fun j hj hrun => State.stalls_of_fault (hrst j hj _ hrun) hfault
  exact ⟨_, hrun.run_eq, s.sameRegisters_later n, hrun.silent, decide_eq_false (by simp [hfault]),
    decide_eq_false (by simp [hfault])⟩

/-- Settles O54: a hold without ticks and an ACK without `tx_done` stall in every cycle. -/
theorem stallsNeverTimeOut : Obligations.StallsNeverTimeOut := by
  intro n s hrst hstall
  have hrun : SilentRun n s (s.later n) 0 := run_of_stalls fun j hj hrun => by
    rcases hstall with ⟨hwait, hticks, hnotick⟩ | ⟨hack, hnodone⟩
    · exact State.stalls_of_hold (hrst j hj _ hrun) hwait hticks (hnotick j hj _ hrun)
    · exact State.stalls_of_ack (hrst j hj _ hrun) hack (hnodone j hj _ hrun)
  exact ⟨_, hrun.run_eq, s.sameRegisters_later n, rfl, hrun.silent⟩

/-- Settles O57, by induction on the cycles: a busy cycle stays busy and silent, or it sends the ack, and then it is the
last, since IDLE is not passed before. -/
theorem exactlyOneAckPerBatch : Obligations.ExactlyOneAckPerBatch := by
  intro n
  induction n with
  | zero =>
    intro s t hbusy _ hrun _
    cases hrun
    exact .inl ⟨hbusy, rfl⟩
  | succ n ih =>
    intro s t hbusy hrst hrun hfirst
    obtain ⟨u, hstep, hrun⟩ := run_succ_next hrun
    rw [trace_succ_of_step n hstep]
    rcases step_of_busy hstep (noReset_first hrst) hbusy with ⟨hu, hsilent⟩ | ⟨hidle, hsent⟩
    · rw [transmissions_cons_of_none hsilent]
      refine ih u t hu (noReset_rest hrst hstep) hrun fun j hpos hj v hv => ?_
      exact hfirst (j + 1) j.succ_pos (Nat.succ_lt_succ hj) v ((run_succ_of_step j hstep).trans hv)
    · obtain rfl : n = 0 := by
        by_contra hn
        exact hfirst 1 Nat.one_pos (by omega) u (run_one hstep) hidle
      cases hrun
      rw [transmissions_cons_of_some hsent]
      exact .inr ⟨hidle, rfl⟩

/-- Settles O58: the two runs fall under the same cases, since every fetch reads a written entry. -/
theorem unwrittenStoreIsNeverSeen : Obligations.UnwrittenStoreIsNeverSeen := by
  intro n s e h
  obtain ⟨t, e', hrun, hrun', htrace⟩ := h.run_withEpoch n e
  exact ⟨t, t.withEpoch e', hrun, hrun', ⟨rfl, rfl, rfl, rfl, rfl, rfl, rfl, rfl, rfl, rfl⟩, htrace⟩

end Sys2Proof

/-! PROOFS. A whole instruction under every tick pattern, and a whole batch to its acknowledgment (42_sequencer.md rules
R161, R162 and R164). -/
namespace Sys2Proof.Machine

/-! ### Counting ticks -/

theorem tickCount_cons (y : Input) (ys : List Input) : tickCount (y :: ys) = y.tickEn.toNat + tickCount ys := by
  cases h : y.tickEn <;> simp [tickCount, h, Nat.add_comm]

theorem tickCount_of_all_ticks {xs : List Input} (h : ∀ y ∈ xs, y.tickEn = true) : tickCount xs = xs.length := by
  rw [tickCount, List.filter_eq_self.mpr h]

/-- No sample follows the last counted tick. -/
def endsInTick (xs : List Input) : Prop := xs = [] ∨ ∃ q z, xs = q ++ [z] ∧ z.tickEn = true

theorem endsInTick_tail {y : Input} {ys : List Input} (h : endsInTick (y :: ys)) : endsInTick ys := by
  rcases h with hnil | ⟨q, z, hq, hz⟩
  · cases hnil
  · cases q with
    | nil => cases hq; exact .inl rfl
    | cons _ q => cases hq; exact .inr ⟨q, z, rfl, hz⟩

theorem tickCount_pos_of_endsInTick {y : Input} {ys : List Input} (h : endsInTick (y :: ys)) :
    0 < tickCount (y :: ys) := by
  rcases h with hnil | ⟨q, z, hq, hz⟩
  · cases hnil
  · rw [hq, tickCount, List.filter_append, List.length_append, List.filter_cons_of_pos hz]
    exact Nat.succ_pos _

theorem endsInTick_of_all_ticks {xs : List Input} (h : ∀ y ∈ xs, y.tickEn = true) : endsInTick xs := by
  rcases xs.eq_nil_or_concat with rfl | ⟨q, z, rfl⟩
  · exact .inl rfl
  · exact .inr ⟨q, z, List.concat_eq_append, h z (by simp)⟩

/-! ### The hold -/

/-- The end of a hold of `w` ticks that took `n` cycles. -/
def State.holdEnd (s : State) (w : Nat) (rest : List Input) (n : Nat) : State :=
  { s with ticks := BitVec.ofNat 16 w, inputs := rest, cycle := s.cycle + n }

theorem State.holdEnd_hold_edge (s : State) (w : Nat) (rest : List Input) (n : Nat) :
    s.hold.edge.holdEnd w rest n = s.holdEnd w rest (n + 1) := by
  have hcycle : s.cycle + 1 + n = s.cycle + (n + 1) := by omega
  cases htick : s.input.tickEn with
  | true => simp [State.hold_of_tick htick, State.holdEnd, State.edge, hcycle]
  | false => simp [State.hold_of_no_tick htick, State.holdEnd, State.edge, hcycle]

theorem State.holdEnd_zero {s : State} {rest : List Input} (hinputs : s.inputs = rest)
    (hticks : s.ticks.toNat = holdLength (classify s.cur)) : s.holdEnd (holdLength (classify s.cur)) rest 0 = s := by
  rw [State.holdEnd, ← (ticks_eq_hold s.ticks (classify s.cur)).mpr hticks, ← hinputs]
  rfl

/-- Below a hold the counter takes a tick without wrapping. -/
theorem State.hold_ticks_toNat {s : State} {i : Instr} (h : s.ticks.toNat < holdLength i) :
    s.hold.ticks.toNat = s.input.tickEn.toNat + s.ticks.toNat := by
  have hbound := holdLength_le i
  rw [State.hold_ticks]
  cases s.input.tickEn with
  | true => simp only [if_true, Bool.toNat_true]; bv_omega
  | false => simp

/-- In WAIT, samples without reset that give exactly the missing ticks run to the end of the hold: the lines stay as
they are, and the ticks are counted. -/
theorem silentRun_hold {pre rest : List Input} {s : State} (hwait : s.st = .wait) (hinputs : s.inputs = pre ++ rest)
    (hrst : ∀ y ∈ pre, y.rst = false) (hends : endsInTick pre)
    (hcount : s.ticks.toNat + tickCount pre = holdLength (classify s.cur)) :
    SilentRun pre.length s (s.holdEnd (holdLength (classify s.cur)) rest pre.length) (tickCount pre) ∧
      ∀ r ∈ trace pre.length s, r.act = s.lines := by
  induction pre generalizing s with
  | nil =>
    rw [List.length_nil, State.holdEnd_zero (hinputs.trans rest.nil_append) hcount]
    exact ⟨⟨rfl, rfl, rfl⟩, List.forall_mem_nil _⟩
  | cons y ys ih =>
    obtain ⟨hrstHead, hrstTail⟩ := List.forall_mem_cons.mp hrst
    have hinput : s.input = y := s.input_cons y (ys ++ rest) hinputs
    have hlt : s.ticks.toNat < holdLength (classify s.cur) := by
      have := tickCount_pos_of_endsInTick hends
      omega
    have hstep := step_of_wait_hold s (hinput ▸ hrstHead) hwait hlt.ne
    have hcounts : s.countsTick = y.tickEn := by
      simp [State.countsTick, hinput, hrstHead, hwait, hlt.ne]
    have hcur : s.hold.edge.cur = s.cur := s.hold_cur
    have hnext : s.hold.edge.ticks.toNat + tickCount ys = holdLength (classify s.hold.edge.cur) := by
      rw [hcur, State.edge_ticks, State.hold_ticks_toNat hlt, hinput, ← hcount, tickCount_cons]
      omega
    obtain ⟨hrun, hacts⟩ := ih (s := s.hold.edge) (s.hold_st.trans hwait) (by simp [hinputs]) hrstTail
      (endsInTick_tail hends) hnext
    rw [hcur, State.holdEnd_hold_edge] at hrun
    rw [List.length_cons, trace_succ_of_step _ hstep, tickCount_cons, ← hcounts]
    refine ⟨.cons hstep (s.transmission_of_ne_ack (by simp [hwait])) hrun,
      List.forall_mem_cons.mpr ⟨rfl, fun r hr => ?_⟩⟩
    rw [hacts r hr, State.edge_lines, s.hold_lines]

/-! ### A whole instruction -/

/-- The state after the cycle of ISSUE that starts `b`. -/
def State.started (s : State) (b : Byte) : State := ((s.latch b).setup (setupLines (classify b) s.lines)).edge

/-- The state after a whole instruction `b` that took `n` cycles. -/
def State.afterInstr (s : State) (b : Byte) (rest : List Input) (n : Nat) : State :=
  { s with cur := b, lines := linesAfter (classify b) s.lines, hb := finishHb (classify b) s.hb, ticks := 0#16,
           k := s.k + 1#6, inputs := rest, cycle := s.cycle + n }

section
variable (s : State) (b : Byte) (rest : List Input) (n : Nat)
@[simp] theorem State.afterInstr_k : (s.afterInstr b rest n).k = s.k + 1#6 := rfl
@[simp] theorem State.afterInstr_cnt : (s.afterInstr b rest n).cnt = s.cnt := rfl
@[simp] theorem State.afterInstr_mem : (s.afterInstr b rest n).mem = s.mem := rfl
@[simp] theorem State.afterInstr_cycle : (s.afterInstr b rest n).cycle = s.cycle + n := rfl
end

theorem State.countsTick_of_ticks_eq {s : State} (h : s.ticks.toNat = holdLength (classify s.cur)) :
    s.countsTick = false := by
  simp [State.countsTick, h]

/-- The state at the end of the hold of `b`, started in `s`, after `n` cycles of it. -/
def State.exiting (s : State) (b : Byte) (rest : List Input) (n : Nat) : State :=
  (s.started b).holdEnd (holdLength (classify b)) rest n

/-- The exit cycle of a whole instruction. -/
theorem silentRun_exit {s : State} (hissue : s.st = .issue) (b : Byte) {last : Input} (rest : List Input) (n : Nat)
    (hrst : last.rst = false) :
    SilentRun 1 (s.exiting b (last :: rest) n) (s.afterInstr b rest (n + 2)) 0 := by
  have hwait : (s.exiting b (last :: rest) n).st = .wait := rfl
  have hticks : (s.exiting b (last :: rest) n).ticks.toNat = holdLength (classify b) := holdLength_toNat (classify b)
  have hstep : step (s.exiting b (last :: rest) n) = .next (s.afterInstr b rest (n + 2)) := by
    have hcycle : s.cycle + 1 + n + 1 = s.cycle + (n + 2) := by omega
    rw [State.afterInstr, ← hcycle, hissue]
    exact step_of_wait_finish _ hrst hwait hticks
  exact .one_of_uncounted hstep (State.transmission_of_ne_ack _ (by simp [hwait])) (State.countsTick_of_ticks_eq hticks)

/-- The samples of one instruction `b`: that of ISSUE, those of the hold up to its last tick, and that of the exit
cycle; none with reset. -/
structure InstrSamples (b : Byte) (x : Input) (pre : List Input) (last : Input) : Prop where
  issueRst : x.rst = false
  holdRst : ∀ y ∈ pre, y.rst = false
  exitRst : last.rst = false
  ticks : tickCount pre = holdLength (classify b)
  endsInTick : endsInTick pre

/-- ISSUE, hold and exit cycle of one instruction: what they leave, and the Setup lines in every cycle after ISSUE. -/
theorem silentRun_instr {s : State} {b : Byte} {x last : Input} {pre rest : List Input}
    (hx : InstrSamples b x pre last) (hissue : s.st = .issue) (hk : s.k ≠ s.cnt) (hfetch : s.fetch = some b)
    (hinputs : s.inputs = x :: (pre ++ last :: rest)) :
    SilentRun (pre.length + 2) s (s.afterInstr b rest (pre.length + 2)) (holdLength (classify b)) ∧
      ∃ rs, trace (pre.length + 2) s = s.record :: rs ∧ ∀ r ∈ rs, r.act = setupLines (classify b) s.lines := by
  obtain ⟨hxrst, hrst, hlast, hcount, hends⟩ := hx
  have hinput : s.input = x := s.input_cons x _ hinputs
  have hstart := step_of_issue_start s (hinput ▸ hxrst) hissue hk b hfetch
  have hsilent : s.transmission = none := s.transmission_of_ne_ack (by simp [hissue])
  have huncounted : s.countsTick = false := State.countsTick_of_ne_wait (by simp [hissue])
  obtain ⟨hhold, hacts⟩ := silentRun_hold (s := s.started b) rfl (congrArg List.tail hinputs) hrst hends
    ((Nat.zero_add _).trans hcount)
  have hexit := silentRun_exit hissue b rest pre.length hlast
  refine ⟨?_, trace (pre.length + 1) (s.started b), trace_succ_of_step _ hstart, ?_⟩
  · have hrun := SilentRun.cons hstart hsilent (hhold.trans hexit)
    rwa [huncounted, Bool.toNat_false, Nat.zero_add, Nat.add_zero, hcount] at hrun
  · rw [trace_add 1 hhold.run_eq, trace_one, List.forall_mem_append]
    exact ⟨hacts, List.forall_mem_singleton.mpr rfl⟩

/-! ### A whole batch -/

/-- The samples of a batch's execution, one instruction after the other. -/
theorem split_instr_samples {mid : List Input} {w c : Nat} (h : mid.length = w + 2 + c) :
    ∃ x pre last rest, mid = x :: (pre ++ last :: rest) ∧ pre.length = w ∧ rest.length = c := by
  obtain ⟨x, tail, rfl⟩ := List.exists_cons_of_length_pos (l := mid) (by omega)
  rw [List.length_cons] at h
  obtain ⟨last, rest, hdrop⟩ := List.exists_cons_of_length_pos (l := tail.drop w) (by rw [List.length_drop]; omega)
  have hlength : (tail.drop w).length = rest.length + 1 := by rw [hdrop, List.length_cons]
  rw [List.length_drop] at hlength
  refine ⟨x, tail.take w, last, rest, ?_, List.length_take_of_le (by omega), by omega⟩
  rw [← hdrop, List.take_append_drop]

/-- What the execution of the bytes `bs` from `s` leaves at its end, with `rest` the samples to come. -/
structure Executed (bs : List Byte) (rest : List Input) (s t : State) : Prop where
  st : t.st = .ack
  cursor : t.k = t.cnt
  cnt : t.cnt = s.cnt
  lines : t.lines = batchLines (decodeBatch bs) s.lines
  hb : t.hb = batchHb (decodeBatch bs) s.hb
  fault : t.fault = s.fault
  faultCnt : t.faultCnt = s.faultCnt
  inputs : t.inputs = rest

/-- A state of ISSUE in which the bytes `bs` of the batch are left to run. -/
structure Executing (bs : List Byte) (s : State) : Prop where
  st : s.st = .issue
  left : s.k.toNat + bs.length = s.cnt.toNat
  cntBound : s.cnt.toNat ≤ 50
  stored : ∀ j, j < bs.length → s.mem.entry (s.k.toNat + j) = bs[j]?

theorem Executing.fetch {b : Byte} {bs : List Byte} {s : State} (h : Executing (b :: bs) s) :
    s.k ≠ s.cnt ∧ s.fetch = some b := by
  have hleft := h.left
  have hcnt := h.cntBound
  rw [List.length_cons] at hleft
  have hbound : s.k.toNat < 50 := by omega
  refine ⟨fun hk => ?_, s.fetch_of_entry b hbound (h.stored 0 (by simp))⟩
  rw [hk] at hleft
  omega

theorem Executing.afterInstr {b : Byte} {bs : List Byte} {s : State} (h : Executing (b :: bs) s) (rest : List Input)
    (n : Nat) : Executing bs (s.afterInstr b rest n) := by
  have hleft := h.left
  have hcnt := h.cntBound
  rw [List.length_cons] at hleft
  have hsucc : (s.k + 1#6).toNat = s.k.toNat + 1 := by bv_omega
  refine ⟨h.st, ?_, hcnt, fun j hj => ?_⟩
  · rw [State.afterInstr_k, hsucc, State.afterInstr_cnt]
    omega
  · rw [State.afterInstr_k, hsucc, State.afterInstr_mem, Nat.add_assoc, Nat.add_comm 1 j]
    exact h.stored (j + 1) (Nat.succ_lt_succ hj)

theorem executing_acceptBatch (s : State) {n : Byte} {bs : List Byte} (hcount : n.toNat ≤ Config.maxBatch)
    (hlength : bs.length = n.toNat) : Executing bs (s.acceptBatch n bs).edge := by
  have hcnt := s.acceptBatch_cnt_toNat n bs hcount
  refine ⟨rfl, ?_, hcnt.trans_le hcount, fun j hj => ?_⟩
  · rw [State.edge_k, State.acceptBatch_k, State.edge_cnt, hcnt, hlength]
    exact Nat.zero_add _
  · rw [State.edge_k, State.acceptBatch_k, State.edge_mem, s.acceptBatch_entry_of_lt n bs (by simpa using hj)]
    simp

/-- Under a tick in every cycle the execution counts the ticks of the holds and ends in ACK (42_sequencer.md rule
R162). -/
theorem silentRun_batch {bs : List Byte} {s : State} {mid rest : List Input} (h : Executing bs s)
    (hinputs : s.inputs = mid ++ rest) (hmid : ∀ y ∈ mid, y.rst = false ∧ y.tickEn = true)
    (hlength : mid.length = executeCycles (decodeBatch bs)) :
    ∃ t, SilentRun mid.length s t ((decodeBatch bs).map holdLength).sum ∧ t.cycle = s.cycle + mid.length ∧
      Executed bs rest s t := by
  induction bs generalizing s mid with
  | nil =>
    obtain ⟨y, rfl⟩ := List.length_eq_one_iff.mp hlength
    have hinput : s.input = y := s.input_cons y rest hinputs
    have hk : s.k = s.cnt := BitVec.eq_of_toNat_eq h.left
    have hstep := step_of_issue_done s (hinput ▸ (hmid y List.mem_cons_self).1) h.st hk
    have hrun := SilentRun.one_of_uncounted hstep (s.transmission_of_ne_ack (by simp [h.st]))
      (State.countsTick_of_ne_wait (by simp [h.st]))
    exact ⟨_, hrun, rfl, rfl, hk, rfl, rfl, rfl, rfl, rfl, congrArg List.tail hinputs⟩
  | cons b bs ih =>
    obtain ⟨x, pre, last, mid, rfl, hpre, hlength⟩ := split_instr_samples hlength
    have hticks : ∀ y ∈ pre, y.tickEn = true := fun y hy => (hmid y (by simp [hy])).2
    have hx : InstrSamples b x pre last :=
      ⟨(hmid x (by simp)).1, fun y hy => (hmid y (by simp [hy])).1, (hmid last (by simp)).1,
        (tickCount_of_all_ticks hticks).trans hpre, endsInTick_of_all_ticks hticks⟩
    obtain ⟨hk, hfetch⟩ := h.fetch
    obtain ⟨hfirst, -⟩ := silentRun_instr (rest := mid ++ rest) hx h.st hk hfetch (by simp [hinputs])
    obtain ⟨t, hrest, hcycle, ht⟩ := ih (h.afterInstr (mid ++ rest) (pre.length + 2)) rfl
      (fun y hy => hmid y (by simp [hy])) hlength
    have hcycles : (x :: (pre ++ last :: mid)).length = pre.length + 2 + mid.length := by
      simp only [List.length_cons, List.length_append]
      omega
    rw [hcycles]
    refine ⟨t, hfirst.trans hrest, ?_, ht.st, ht.cursor, ht.cnt, ht.lines, ht.hb, ht.fault, ht.faultCnt, ht.inputs⟩
    rw [hcycle, State.afterInstr_cycle, Nat.add_assoc]

/-! ### Acceptance and the acknowledgment -/

/-- The samples still listed after `n` clock edges. -/
theorem State.later_input {s : State} {xs rest : List Input} {n : Nat} {x : Input} (hinputs : s.inputs = xs ++ rest)
    (hx : xs[n]? = some x) : (s.later n).input = x := by
  obtain ⟨hn, rfl⟩ := List.getElem?_eq_some_iff.mp hx
  refine (s.later n).input_cons _ (xs.drop (n + 1) ++ rest) ?_
  rw [State.later, hinputs, List.drop_append_of_le_length hn.le, List.drop_eq_getElem_cons hn, List.cons_append]

/-- In ACK, samples without reset and without `tx_done` change nothing. -/
theorem silentRun_ack {s : State} {waits rest : List Input} (hack : s.st = .ack) (hinputs : s.inputs = waits ++ rest)
    (hwaits : ∀ y ∈ waits, y.rst = false ∧ y.txDone = false) : SilentRun waits.length s (s.later waits.length) 0 := by
  refine run_of_stalls fun j hj _ => ?_
  have hinput : (s.later j).input = waits[j] := State.later_input hinputs (List.getElem?_eq_getElem hj)
  obtain ⟨hrst, hdone⟩ := hwaits _ (List.getElem_mem hj)
  exact State.stalls_of_ack (hinput ▸ hrst) hack (hinput ▸ hdone)

/-- The start of a batch's execution, after its acceptance. -/
theorem silentRun_accept {s : State} {n : Byte} {bs : List Byte} (hrst : s.input.rst = false) (hidle : s.st = .idle)
    (hvalid : s.input.rxValid = true) (hparse : parseBatch s.input.rxOk s.input.rxBuf = .accept n bs) :
    SilentRun 1 s (s.acceptBatch n bs).edge 0 :=
  .one_of_uncounted (step_of_idle_accept s hrst hidle hvalid n bs hparse)
    (s.transmission_of_ne_ack (by simp [hidle])) (State.countsTick_of_ne_wait (by simp [hidle]))

end Sys2Proof.Machine

namespace Sys2Proof
open Machine

/-! ### The statements -/

/-- Settles O55: ISSUE, the hold and the exit cycle, one after the other. -/
theorem wholeInstructionUnderAnyTicks : Obligations.WholeInstructionUnderAnyTicks := by
  intro s b x last pre rest hissue hk hbound hentry hinputs hxrst hrst hlast hcount hends
  obtain ⟨hrun, rs, htrace, hacts⟩ := silentRun_instr ⟨hxrst, hrst, hlast, hcount, hends⟩ hissue hk
    (s.fetch_of_entry b hbound hentry) hinputs
  exact ⟨hrun.run_eq, ⟨s.record, rs, htrace, rfl, hacts⟩, hrun.counted, hrun.silent⟩

/-- Settles O56: acceptance, the instructions in order, the wait in ACK, all silent, and then the cycle that ends the
transmit. -/
theorem batchRunsToOneAck : Obligations.BatchRunsToOneAck := by
  intro s n bs x done mid waits rest hidle hxrst hvalid hparse hinputs hmid hlength hwaits hdonerst hdone
  obtain rfl : s.input = x := s.input_cons x _ hinputs
  obtain ⟨-, -, -, hcount, -, hbs⟩ := parseBatch_accept hparse
  obtain ⟨t, hexec, hcycle, ht⟩ := silentRun_batch (rest := waits ++ done :: rest)
    (executing_acceptBatch s hcount hbs) (by simp [hinputs]) hmid hlength
  have hsilent := ((silentRun_accept hxrst hidle hvalid hparse).trans hexec).trans
    (silentRun_ack ht.st ht.inputs hwaits)
  have hlater : (t.later waits.length).inputs = done :: rest := by simp [State.later, ht.inputs]
  have hinput : (t.later waits.length).input = done := State.input_cons _ done rest hlater
  have hack : (t.later waits.length).st = .ack := ht.st
  have hstep := step_of_ack_done (t.later waits.length) (hinput ▸ hdonerst) hack (hinput ▸ hdone)
  have hsent : (t.later waits.length).record.sent = some ⟨frameAck, done.txOk⟩ :=
    hinput ▸ State.transmission_of_ack_done (hinput ▸ hdonerst) hack (hinput ▸ hdone)
  have huncounted : (t.later waits.length).record.counted = false := State.countsTick_of_ne_wait (by simp [hack])
  have hstamp : (t.later waits.length).cycle = s.cycle + 1 + mid.length + waits.length :=
    congrArg (· + waits.length) hcycle
  have hcnt : t.cnt.toNat = n.toNat := (congrArg BitVec.toNat ht.cnt).trans (s.acceptBatch_cnt_toNat n bs hcount)
  have htrace := trace_add 1 hsilent.run_eq
  rw [trace_one] at htrace
  refine ⟨_, (run_add 1 hsilent.run_eq).trans (run_one hstep), rfl, hcnt, ht.cursor, ht.lines, ht.hb, ht.fault,
    ht.faultCnt, congrArg List.tail hlater, ?_, ?_⟩
  · rw [htrace, countedTicks_append, hsilent.counted, countedTicks_cons, huncounted]
    simp [countedTicks]
  · rw [htrace, transmissions_append, hsilent.silent, transmissions_cons_of_some hsent, State.record, hstamp]
    rfl

end Sys2Proof

/-! PROOFS. The observation of a run (42_sequencer.md rule R167). -/
namespace Sys2Proof.Machine

/-- The outputs a stretch shows. -/
def Segment.outputs (e : Segment) : Lines × Bool × Bool := (e.act, e.hbOut, e.faultOut)

/-- The records `g` are the stretch `e`: they show its outputs, begin at its start and count its ticks. -/
def IsStretch (g : List CycleRecord) (e : Segment) : Prop :=
  g.head?.map CycleRecord.cycle = some e.start ∧ countedTicks g = e.ticks ∧
    ∀ r ∈ g, r.act = e.act ∧ r.hbOut = e.hbOut ∧ r.faultOut = e.faultOut

/-- The stretch of one record. -/
def CycleRecord.segment (r : CycleRecord) : Segment := ⟨r.cycle, r.act, r.hbOut, r.faultOut, r.counted.toNat⟩

/-- A stretch begun one record earlier. -/
def Segment.extend (e : Segment) (r : CycleRecord) : Segment :=
  { e with start := r.cycle, ticks := e.ticks + r.counted.toNat }

theorem isStretch_singleton (r : CycleRecord) : IsStretch [r] r.segment := by
  refine ⟨rfl, ?_, List.forall_mem_singleton.mpr ⟨rfl, rfl, rfl⟩⟩
  rw [countedTicks_cons]
  rfl

theorem IsStretch.extend {g : List CycleRecord} {e : Segment} {r : CycleRecord} (h : IsStretch g e)
    (hsame : e.act = r.act ∧ e.hbOut = r.hbOut ∧ e.faultOut = r.faultOut) : IsStretch (r :: g) (e.extend r) := by
  obtain ⟨-, hticks, houtputs⟩ := h
  obtain ⟨hact, hhb, hfault⟩ := hsame
  refine ⟨rfl, ?_, List.forall_mem_cons.mpr ⟨⟨hact.symm, hhb.symm, hfault.symm⟩, houtputs⟩⟩
  rw [countedTicks_cons, hticks, Nat.add_comm]
  rfl

/-- One more record before the others extends the first stretch or opens one of its own. -/
theorem segments_cons_cases (r : CycleRecord) (l : List CycleRecord) :
    (∃ e es, segments l = e :: es ∧ (e.act = r.act ∧ e.hbOut = r.hbOut ∧ e.faultOut = r.faultOut) ∧
      segments (r :: l) = e.extend r :: es) ∨
    ((∀ e ∈ (segments l).head?, r.segment.outputs ≠ e.outputs) ∧ segments (r :: l) = r.segment :: segments l) := by
  rw [segments]
  cases hl : segments l with
  | nil => exact .inr ⟨by simp, rfl⟩
  | cons e es =>
    by_cases hsame : e.act = r.act ∧ e.hbOut = r.hbOut ∧ e.faultOut = r.faultOut
    · exact .inl ⟨e, es, rfl, hsame, if_pos hsame⟩
    · refine .inr ⟨fun e' he' => ?_, if_neg hsame⟩
      obtain rfl : e = e' := Option.some.inj he'
      intro houtputs
      obtain ⟨hact, hhb, hfault⟩ : r.act = e.act ∧ r.hbOut = e.hbOut ∧ r.faultOut = e.faultOut := by
        simpa [Segment.outputs, CycleRecord.segment] using houtputs
      exact hsame ⟨hact.symm, hhb.symm, hfault.symm⟩

/-- The records fall into the stretches of the observation. -/
theorem exists_stretches (l : List CycleRecord) :
    ∃ groups : List (List CycleRecord), groups.flatten = l ∧ List.Forall₂ IsStretch groups (segments l) := by
  induction l with
  | nil => exact ⟨[], rfl, .nil⟩
  | cons r l ih =>
    obtain ⟨groups, hflatten, hgroups⟩ := ih
    rcases segments_cons_cases r l with ⟨e, es, hl, hsame, hcons⟩ | ⟨-, hcons⟩
    · rw [hl] at hgroups
      cases hgroups with
      | @cons g _ groups _ hfirst hrest =>
        rw [hcons]
        exact ⟨(r :: g) :: groups, congrArg (r :: ·) hflatten, .cons (hfirst.extend hsame) hrest⟩
    · rw [hcons]
      exact ⟨[r] :: groups, congrArg (r :: ·) hflatten, .cons (isStretch_singleton r) hgroups⟩

/-- Neighbouring stretches differ in an output. -/
theorem segments_isChain (l : List CycleRecord) :
    List.IsChain (fun e e' : Segment => e.outputs ≠ e'.outputs) (segments l) := by
  induction l with
  | nil => exact .nil
  | cons r l ih =>
    rcases segments_cons_cases r l with ⟨e, es, hl, -, hcons⟩ | ⟨hdiffer, hcons⟩
    · rw [hl, List.isChain_cons] at ih
      rw [hcons, List.isChain_cons]
      exact ih
    · rw [hcons, List.isChain_cons]
      exact ⟨hdiffer, ih⟩

end Sys2Proof.Machine

namespace Sys2Proof
open Machine

/-! ### The statement -/

/-- Settles O59, by induction on the records: each extends the first stretch after it or opens one of its own. -/
theorem observationKeepsEveryTick : Obligations.ObservationKeepsEveryTick :=
  fun l => ⟨exists_stretches l, segments_isChain l⟩

end Sys2Proof

/-! PROOFS. The assembler (30_encoding.md rule R83). -/
namespace Sys2Proof.Machine

/-! ### The text of a batch -/

/-- A text with a character other than a space is not trimmed away. -/
theorem trimSpaces_ne_nil {t : Text} {c : Char} (hc : c ∈ t) (hspace : c ≠ ' ') : trimSpaces t ≠ [] := by
  intro hnil
  rw [trimSpaces, List.reverse_eq_nil_iff, List.dropWhile_eq_nil_iff] at hnil
  have hkept : c ∈ t.dropWhile (fun c => c == ' ') := by
    rw [← List.takeWhile_append_dropWhile (p := fun c => c == ' ') (l := t), List.mem_append] at hc
    exact hc.resolve_left fun htaken => hspace (by simpa using List.mem_takeWhile_imp htaken)
  exact hspace (by simpa using hnil c (List.mem_reverse.mpr hkept))

/-- What a canonical text is to the assembler of a batch: one item, trimmed to itself with and without a space before
it, and not blank. -/
structure Item (t : Text) : Prop where
  noComma : t.all (fun c => c != ',') = true
  trim : trimSpaces t = t
  trimSpace : trimSpaces (' ' :: t) = t
  notBlank : ∃ c ∈ t, c ≠ ' '

theorem item_instrText (i : Instr) : Item (instrText i) := by
  have hplain := plainItem_instrText i
  simp only [plainItem, Bool.and_eq_true, beq_iff_eq] at hplain
  obtain ⟨⟨⟨hcomma, htrim⟩, hspace⟩, hfirst⟩ := hplain
  refine ⟨hcomma, htrim, hspace, ?_⟩
  cases htext : instrText i with
  | nil => simp [htext] at hfirst
  | cons c t => exact ⟨c, List.mem_cons_self, by simpa [htext] using hfirst⟩

/-- The pieces of joined items: the first as it is, each other one after a space. -/
theorem splitCommas_joinItems (t : Text) (ts : List Text) (h : ∀ u ∈ t :: ts, u.all (fun c => c != ',') = true) :
    splitCommas (joinItems (t :: ts)) = t :: ts.map (' ' :: ·) := by
  induction ts generalizing t with
  | nil => exact splitCommas_of_no_comma t (h t List.mem_cons_self)
  | cons u us ih =>
    have hspaced : ' ' :: joinItems (u :: us) = joinItems ((' ' :: u) :: us) := by cases us <;> rfl
    have hjoin : joinItems (t :: u :: us) = t ++ ',' :: joinItems ((' ' :: u) :: us) := by
      rw [← hspaced, joinItems]
      simp
    rw [hjoin, splitCommas_append t _ (h t List.mem_cons_self), ih (' ' :: u), List.map_cons]
    simpa using (List.forall_mem_cons.mp h).2

theorem trimSpaces_joinItems_ne_nil {t : Text} (ht : Item t) (ts : List Text) :
    trimSpaces (joinItems (t :: ts)) ≠ [] := by
  obtain ⟨c, hc, hspace⟩ := ht.notBlank
  refine trimSpaces_ne_nil ?_ hspace
  cases ts with
  | nil => exact hc
  | cons u us =>
    rw [joinItems, List.append_assoc]
    exact List.mem_append_left _ hc

/-- The body between the brackets of a batch's text. -/
theorem assembleBatch_brackets (body : Text) :
    assembleBatch (['['] ++ body ++ [']']) =
      if trimSpaces body = [] then .ok [] else assembleItems (splitCommas body) := by
  simp [assembleBatch]

theorem assemble_instrText {i : Instr} (h : i.wellFormed = true) : assemble (instrText i) = .ok (encodeByte i) := by
  cases i with
  | stop => exact Laws.AsmRoundTrip.stop h
  | detonate a => exact Laws.AsmRoundTrip.detonate a h
  | forward a => exact Laws.AsmRoundTrip.forward a h
  | backward a => exact Laws.AsmRoundTrip.backward a h
  | turnLeft => exact Laws.AsmRoundTrip.turnLeft h
  | turnRight a => exact Laws.AsmRoundTrip.turnRight a h

theorem assembleItems_cons {t : Text} {ts : List Text} {i : Instr} {bs : List Byte} (ht : trimSpaces t = instrText i)
    (hi : i.wellFormed = true) (hts : assembleItems ts = .ok bs) :
    assembleItems (t :: ts) = .ok (encodeByte i :: bs) := by
  rw [assembleItems, ht, assemble_instrText hi, hts]

/-- Canonical texts after a space each assemble to their instructions' bytes. -/
theorem assembleItems_spaced {is : List Instr} (h : ∀ i ∈ is, i.wellFormed = true) :
    assembleItems ((is.map instrText).map (' ' :: ·)) = .ok (encodeBatch is) := by
  induction is with
  | nil => rfl
  | cons i is ih =>
    obtain ⟨hi, his⟩ := List.forall_mem_cons.mp h
    exact assembleItems_cons (item_instrText i).trimSpace hi (ih his)

theorem assembleBatch_batchText {is : List Instr} (h : ∀ i ∈ is, i.wellFormed = true) :
    assembleBatch (batchText is) = .ok (encodeBatch is) := by
  rw [batchText, assembleBatch_brackets]
  cases is with
  | nil => rfl
  | cons i is =>
    have hcommas : ∀ u ∈ (i :: is).map instrText, u.all (fun c => c != ',') = true :=
      List.forall_mem_map.mpr fun i _ => (item_instrText i).noComma
    obtain ⟨hi, his⟩ := List.forall_mem_cons.mp h
    rw [List.map_cons] at hcommas ⊢
    rw [if_neg (trimSpaces_joinItems_ne_nil (item_instrText i) _), splitCommas_joinItems _ _ hcommas]
    exact assembleItems_cons (item_instrText i).trim hi (assembleItems_spaced his)

/-! ### A name with an operand -/

/-- No name holds an opening bracket, and no two names are spelled alike. -/
theorem asmText_no_bracket (n : AsmName) : (asmText n).all (fun c => c != '(') = true := by
  cases n <;> decide

theorem find_asmText (n : AsmName) : asmNames.find? (fun m => asmText m == asmText n) = some n := by
  cases n <;> decide

/-- A name before nothing or an opening bracket is read as that name. -/
theorem parseInstr_name (n : AsmName) {t : Text} {a : Option Nat} (ht : t.takeWhile (fun c => c != '(') = [])
    (ha : operand t = some a) : parseInstr (asmText n ++ t) = assembleOp n a := by
  have hname := List.all_eq_true.mp (asmText_no_bracket n)
  have hdrop : t.dropWhile (fun c => c != '(') = t := by
    simpa [ht] using List.takeWhile_append_dropWhile (p := fun c => c != '(') (l := t)
  rw [parseInstr, List.takeWhile_append_of_pos hname, ht, List.append_nil, find_asmText,
    List.dropWhile_append_of_pos hname, hdrop]
  simp only [ha]

/-- The form `(arg=v)` in any digits. -/
theorem operand_arg {digits : Text} {v : Nat} (h : decimal digits = some v) :
    operand (['(', 'a', 'r', 'g', '='] ++ digits ++ [')']) = some (some v) := by
  simp [operand, h]

theorem parseInstr_arg (n : AsmName) {digits : Text} {v : Nat} (h : decimal digits = some v) :
    parseInstr (asmText n ++ ['(', 'a', 'r', 'g', '='] ++ digits ++ [')']) = assembleOp n (some v) := by
  rw [List.append_assoc, List.append_assoc]
  exact parseInstr_name n rfl (operand_arg h)

theorem parseInstr_bare (n : AsmName) : parseInstr (asmText n) = assembleOp n none := by
  rw [← List.append_nil (asmText n)]
  exact parseInstr_name n rfl rfl

/-- What `name(arg=v)` assembles to, from what the table gives for the name: `i` in the range of the name, and else a
refusal. -/
theorem assemble_arg {n : AsmName} {digits : Text} {v lo hi : Nat} {base : Byte} {i : Instr}
    (h : decimal digits = some v)
    (hop : assembleOp n (some v) = if lo ≤ v ∧ v ≤ hi then .ok i else .error .assemblerSyntax)
    (hbyte : v ≤ hi → encodeByte i = base ||| BitVec.ofNat 8 v) :
    assemble (asmText n ++ ['(', 'a', 'r', 'g', '='] ++ digits ++ [')']) =
      if lo ≤ v ∧ v ≤ hi then .ok (base ||| BitVec.ofNat 8 v) else .error .assemblerSyntax := by
  rw [assemble, parseInstr_arg n h, hop]
  by_cases hrange : lo ≤ v ∧ v ≤ hi
  · simp only [if_pos hrange, hbyte hrange.2]
  · simp only [if_neg hrange]

end Sys2Proof.Machine

namespace Sys2Proof
open Machine

/-- The byte of an argument written in decimal: the opcode's base byte with the value in its low bits. -/
theorem encodeInstr_ofNat (op : BitVec 2) {v : Nat} (hv : v ≤ 31) :
    encodeInstr op (BitVec.ofNat 5 v) = encodeInstr op 0#5 ||| BitVec.ofNat 8 v := by
  have hwide : (BitVec.ofNat 5 v).setWidth 8 = BitVec.ofNat 8 v := by bv_omega
  rw [← hwide, ← encodeInstr_arg_only, encodeInstr_or, BitVec.or_zero, BitVec.zero_or]

/-- The byte of a classified pair is the encoder's (40_codec.md rule R104). -/
theorem encodeByte_instr : ∀ op arg, encodeByte ((OpClass.ofBits op).instr arg) = encodeInstr op arg := by decide

theorem classify_wellFormed (b : Byte) : (classify b).wellFormed = true := by
  rw [classify]
  cases OpClass.ofBits (decodeInstr b).1 with
  | stopOrDetonate | turn => by_cases h : (decodeInstr b).2 = 0#5 <;> simp [OpClass.instr, Instr.wellFormed, h]
  | forward | backward => rfl

/-! ### The statements -/

/-- Settles O8: the items of the bracketed text trim to the canonical texts, and each of those assembles. -/
theorem batchTextAssembles : Obligations.BatchTextAssembles :=
  ⟨fun _ => assemble_instrText, fun _ h => assembleBatch_batchText (List.all_eq_true.mp h)⟩

/-- Settles O60: one row of the name table at a time; without an argument name by name; and the canonical text of the
classified byte, which has no bit 7. -/
theorem assemblerAliasesAndRefusals : Obligations.AssemblerAliasesAndRefusals := by
  refine ⟨?_, fun n => ?_, fun b => ⟨?_, ?_⟩⟩
  · have hfromZero (v : Nat) : v ≤ 31 ↔ 0 ≤ v ∧ v ≤ 31 := by omega
    have hzero (v : Nat) : v = 0 ↔ 0 ≤ v ∧ v ≤ 0 := by omega
    simp only [List.forall_mem_cons]
    refine ⟨fun _ v h => ?_, fun _ v h => ?_, fun _ v h => ?_, fun _ v h => ?_, fun _ v h => ?_, fun _ v h => ?_,
      fun _ v h => ?_, fun _ v h => ?_, List.forall_mem_nil _⟩
    · exact assemble_arg h (if_congr (hzero v) rfl rfl) fun hv => by rw [Nat.le_zero.mp hv]; rfl
    · exact assemble_arg h rfl (encodeInstr_ofNat 0#2)
    · exact assemble_arg h (if_congr (hfromZero v) rfl rfl) (encodeInstr_ofNat 1#2)
    · exact assemble_arg h (if_congr (hfromZero v) rfl rfl) (encodeInstr_ofNat 2#2)
    · exact assemble_arg h (if_congr (hzero v) rfl rfl) fun hv => by rw [Nat.le_zero.mp hv]; rfl
    · exact assemble_arg h rfl (encodeInstr_ofNat 3#2)
    · exact assemble_arg h (if_congr (hfromZero v) rfl rfl) fun hv =>
        (encodeByte_instr 0#2 _).trans (encodeInstr_ofNat 0#2 hv)
    · exact assemble_arg h (if_congr (hfromZero v) rfl rfl) fun hv =>
        (encodeByte_instr 3#2 _).trans (encodeInstr_ofNat 3#2 hv)
  · rw [assemble, parseInstr_bare]
    cases n <;> rfl
  · rw [disassemble, disassemble, classify, decodeInstr_xor_bit_seven, classify]
  · rw [disassemble, assemble_instrText (classify_wellFormed b), classify, encodeByte_instr, encodeInstr_decodeInstr]

end Sys2Proof
